-- ==== Sys2Proof/Word.lean ====
section
/-!
DEFINITION. The word types of the CAN block (R9, R11 of spec/00_scope.md) and the two records made of them that
both the state and the codec use.
-/

namespace Sys2Proof

/-- A 32-bit unsigned value (R11). -/
abbrev Word := BitVec 32

/-- An 8-bit unsigned value (R11). -/
abbrev Byte := BitVec 8

/-- An encoded frame, the four words `(IDW, DLW, DL, DH)` of R70 (spec/30_encoding.md); also one entry
`(RIR, RDTR, RDLR, RDHR)` of the receive FIFO (R30), which has the same layout. -/
structure FrameWords where
  idw : Word := 0
  dlw : Word := 0
  dl : Word := 0
  dh : Word := 0
  deriving DecidableEq, Repr, Inhabited

/-- The source's logical frame (R100, R11): `dlc` and `id` are natural numbers, well-formedness bounds them. -/
structure LogicalFrame where
  id : Nat := 0
  ext : Bool := false
  rtr : Bool := false
  dlc : Nat := 0
  data : List Byte := []
  deriving DecidableEq, Repr, Inhabited

/-- A filter (R140): its identifier and its mask, absent when the caller gives none. -/
structure MessageFilter where
  identifier : Word
  mask : Option Word
  deriving DecidableEq, Repr, Inhabited

end Sys2Proof
end

