-- ==== Sys2Proof/Syntax.lean ====
section
/-!
DEFINITION. The commands of the CAN block: one constructor for each row of the opcode table (R81, spec/30_encoding.md),
with the fields its CMD word carries (R77). The other operands are the latched argument registers (R78).
-/

namespace Sys2Proof

/-- The `op` of SEQ (R21) and of a fault record (R203). -/
inductive Op where
  | enc | dec | tx | rx | fadd | frem | fclr | fcnt
  deriving DecidableEq, Repr, Inhabited

/-- A command. `ext`, `rtr` and `dlc` are the fields X, R and D of ENC and TX; `hasMask` is the field M of FADD
(R77). -/
inductive Instr where
  | enc (ext rtr : Bool) (dlc : Nat)
  | dec
  | tx (ext rtr : Bool) (dlc : Nat)
  | rx
  | fadd (hasMask : Bool)
  | frem
  | fclr
  | fcnt
  deriving DecidableEq, Repr, Inhabited

/-- The command's `op` (R21). -/
def Instr.op : Instr → Op
  | .enc _ _ _ => .enc
  | .dec => .dec
  | .tx _ _ _ => .tx
  | .rx => .rx
  | .fadd _ => .fadd
  | .frem => .frem
  | .fclr => .fclr
  | .fcnt => .fcnt

end Sys2Proof
end

