-- ==== Sys2Proof/WellFormed.lean ====
section
/-!
DEFINITION. Which commands a CMD word can express: the field D has four bits (R77, spec/30_encoding.md), and every
other operand's type is exactly its field. A `dlc` of 9 to 15 is well formed as a command (R82): the frame it asks for
is not (R101), which is the command's own fault.
-/

namespace Sys2Proof

/-- The largest value of the field D, `CMD[11:8]` (R77). -/
abbrev maxDlcField : Nat := 15

/-- The command has a CMD word (R77, R82). -/
def Instr.wellFormed : Instr → Bool
  | .enc _ _ dlc => decide (dlc ≤ maxDlcField)
  | .dec => true
  | .tx _ _ dlc => decide (dlc ≤ maxDlcField)
  | .rx => true
  | .fadd _ => true
  | .frem => true
  | .fclr => true
  | .fcnt => true

end Sys2Proof
end

