-- ==== Sys2Proof/Decode.lean ====
section
/-!
DEFINITION. The command word (R77, R81, R82 of spec/30_encoding.md): its fields, the decoder, total and rejecting by
name, the encoder written from the same table, and the opcode table's rows.
-/

namespace Sys2Proof

/-- Why a CMD word is illegal (R82). -/
inductive Reject where
  /-- `OPC` is 0x0 or 0x9 to 0xF (R81). -/
  | reservedOpcode
  /-- A bit of `CMD[7:6]` or `CMD[31:13]` is set, which no opcode uses (R77). -/
  | reservedBits
  /-- A bit of X, R, D or M is set that this opcode does not use (R82). -/
  | unusedField
  deriving DecidableEq, Repr

/-- `OPC`, `CMD[3:0]` (R77). -/
def cmdOpc (w : Word) : Nat := (w.extractLsb' 0 4).toNat

/-- `X`, `CMD[4]` (R77). -/
def cmdX (w : Word) : Bool := w.getLsbD 4

/-- `R`, `CMD[5]` (R77). -/
def cmdR (w : Word) : Bool := w.getLsbD 5

/-- The reserved field `CMD[7:6]` (R77). -/
def cmdReservedLow (w : Word) : Nat := (w.extractLsb' 6 2).toNat

/-- `D`, `CMD[11:8]` (R77). -/
def cmdD (w : Word) : Nat := (w.extractLsb' 8 4).toNat

/-- `M`, `CMD[12]` (R77). -/
def cmdM (w : Word) : Bool := w.getLsbD 12

/-- The reserved field `CMD[31:13]` (R77). -/
def cmdReservedHigh (w : Word) : Nat := (w.extractLsb' 13 19).toNat

/-- ENC and TX use X, R and D and do not use M (R82). -/
def decodeFrameCommand (w : Word) (i : Bool → Bool → Nat → Instr) : Except Reject Instr :=
  if cmdM w then .error .unusedField else .ok (i (cmdX w) (cmdR w) (cmdD w))

/-- FADD uses M and does not use X, R or D (R82). -/
def decodeFilterCommand (w : Word) (i : Bool → Instr) : Except Reject Instr :=
  if cmdX w || cmdR w || cmdD w != 0 then .error .unusedField else .ok (i (cmdM w))

/-- DEC, RX, FREM, FCLR and FCNT use none of X, R, D and M (R82). -/
def decodePlainCommand (w : Word) (i : Instr) : Except Reject Instr :=
  if cmdX w || cmdR w || cmdD w != 0 || cmdM w then .error .unusedField else .ok i

/-- The command a CMD word is, or why it is illegal (R81, R82). -/
def decode (w : Word) : Except Reject Instr :=
  if cmdOpc w = 0 ∨ 8 < cmdOpc w then .error .reservedOpcode
  else if cmdReservedLow w ≠ 0 ∨ cmdReservedHigh w ≠ 0 then .error .reservedBits
  else match cmdOpc w with
    | 1 => decodeFrameCommand w .enc
    | 2 => decodePlainCommand w .dec
    | 3 => decodeFrameCommand w .tx
    | 4 => decodePlainCommand w .rx
    | 5 => decodeFilterCommand w .fadd
    | 6 => decodePlainCommand w .frem
    | 7 => decodePlainCommand w .fclr
    | _ => decodePlainCommand w .fcnt

/-- The opcode of a command (R81). -/
def Op.code : Op → Nat
  | .enc => 0x1
  | .dec => 0x2
  | .tx => 0x3
  | .rx => 0x4
  | .fadd => 0x5
  | .frem => 0x6
  | .fclr => 0x7
  | .fcnt => 0x8

/-- One bit as a word (R9: zext). -/
def bitWord (b : Bool) : Word := (BitVec.ofBool b).setWidth 32

/-- A CMD word put together from its fields at the places of R77; the reserved fields are 0. -/
def packCmd (op : Op) (x r : Bool) (d : Nat) (m : Bool) : Word :=
  BitVec.ofNat 32 op.code ||| bitWord x <<< 4 ||| bitWord r <<< 5 ||| (BitVec.ofNat 4 d).setWidth 32 <<< 8
    ||| bitWord m <<< 12

/-- The CMD word of a well-formed command (R77, R81). -/
def encode : Instr → Word
  | .enc ext rtr dlc => packCmd .enc ext rtr dlc false
  | .dec => packCmd .dec false false 0 false
  | .tx ext rtr dlc => packCmd .tx ext rtr dlc false
  | .rx => packCmd .rx false false 0 false
  | .fadd hasMask => packCmd .fadd false false 0 hasMask
  | .frem => packCmd .frem false false 0 false
  | .fclr => packCmd .fclr false false 0 false
  | .fcnt => packCmd .fcnt false false 0 false

/-- A row of the opcode table (R82). -/
structure OpcodeRow where
  op : Op
  fixed : Word
  mask : Word
  deriving DecidableEq, Repr

/-- spec/opcode_table.json: each command's match and mask. -/
def opcodeTable : List OpcodeRow :=
  [⟨.enc, 0x00000001, 0xFFFFF0CF⟩,
   ⟨.dec, 0x00000002, 0xFFFFFFFF⟩,
   ⟨.tx, 0x00000003, 0xFFFFF0CF⟩,
   ⟨.rx, 0x00000004, 0xFFFFFFFF⟩,
   ⟨.fadd, 0x00000005, 0xFFFFEFFF⟩,
   ⟨.frem, 0x00000006, 0xFFFFFFFF⟩,
   ⟨.fclr, 0x00000007, 0xFFFFFFFF⟩,
   ⟨.fcnt, 0x00000008, 0xFFFFFFFF⟩]

/-- The word has the row's fixed bits, `(CMD & mask) = match` (R82). -/
def OpcodeRow.matchesWord (row : OpcodeRow) (w : Word) : Bool := w &&& row.mask == row.fixed

/-- The command of the `nbits` low bits `w` of a CMD word, the bits above them 0: one command is one CMD word (R84),
numbered from its least significant bit (R9). -/
def tableWord (nbits w : Nat) : Word := BitVec.ofNat 32 (w % 2 ^ nbits)

/-- What the decoder reads from a word of the opcode table, none where it rejects it. -/
def decodeTableWord (nbits w : Nat) : Option Instr :=
  match decode (tableWord nbits w) with
  | .ok i => some i
  | .error _ => none

end Sys2Proof
end

