-- ==== Sys2Proof/Config.lean ====
section
/-!
DEFINITION. What an implementation fixes: the counts of R4 and R5, the parameters of R8 (spec/00_scope.md), and the
two values the spec leaves open, as constants without a body.
-/

namespace Sys2Proof

/-- `P_RX_OVERRUN` (R8, R170): what a frame arriving at a full receive FIFO does. -/
inductive Overrun where
  | discardNew
  | overwriteLast
  deriving DecidableEq, Repr, Inhabited

/-- Which `P_MATCH` (R8, R172) the implementation has: the default of R173, or any other function that meets the two
requirements of R172. -/
inductive Matching where
  | maskFormula
  | other
  deriving DecidableEq, Repr, Inhabited

/-- The parameters of R8, but for `P_REG_MAP`, which no rule reads (log 20). The spec takes them as arguments of the
model: they stand in State, no step changes them, and a statement about every state holds for every value of them
(log 7). -/
structure Params where
  rxDepth : Nat
  rxOverrun : Overrun
  matching : Matching
  modeselA : Bool
  modeselB : Bool
  deriving DecidableEq, Repr

/-- `NMB` (R4). -/
abbrev Config.numMailboxes : Nat := 3

/-- `NBANK` (R5). -/
abbrev Config.numBanks : Nat := 28

/-- `P_RX_OVERRUN` is OPEN (R171): a claim must hold for both. It has no body, so no proof can know it (log 8). -/
opaque Config.rxOverrun : Overrun

/-- The bank matching rule of an implementation whose `P_MATCH` is not the default (R172), on the arguments that
requirement 2 of R172 does not fix. It has no body (log 9). -/
opaque Config.matchOther : Bool → Bool → Word → Word → Word → Bool

/-- The parameters' defaults (R8); the OPEN one is `Config.rxOverrun`. -/
def Config.defaultParams : Params where
  rxDepth := 3
  rxOverrun := Config.rxOverrun
  matching := .maskFormula
  modeselA := true
  modeselB := false

/-- The registers that the table of R57 (spec/20_memory.md) gives an address. -/
inductive RegName where
  | tsr
  | tir (m : Fin Config.numMailboxes)
  | tdtr (m : Fin Config.numMailboxes)
  | tdlr (m : Fin Config.numMailboxes)
  | tdhr (m : Fin Config.numMailboxes)
  | rf0r
  | ri0r
  | rdt0r
  | rdl0r
  | rdh0r
  | fm1r
  | fs1r
  | fa1r
  | fr1 (k : Fin Config.numBanks)
  | fr2 (k : Fin Config.numBanks)
  deriving DecidableEq, Repr

/-- The default of `P_REG_MAP` (R57): a register's offset in bytes from the peripheral base. Only a bus-level front end
would use it, and no step reads it (log 20). -/
def Config.regMap : RegName → Nat
  | .tsr => 0x008
  | .tir m => 0x180 + 0x10 * m.val
  | .tdtr m => 0x184 + 0x10 * m.val
  | .tdlr m => 0x188 + 0x10 * m.val
  | .tdhr m => 0x18C + 0x10 * m.val
  | .rf0r => 0x00C
  | .ri0r => 0x1B0
  | .rdt0r => 0x1B4
  | .rdl0r => 0x1B8
  | .rdh0r => 0x1BC
  | .fm1r => 0x204
  | .fs1r => 0x20C
  | .fa1r => 0x21C
  | .fr1 k => 0x240 + 8 * k.val
  | .fr2 k => 0x244 + 8 * k.val

/-- The peripheral base of CAN1 (R57). -/
def Config.can1Base : Nat := 0x40006400

end Sys2Proof
end

