-- ==== Sys2Proof/Machine/Event.lean ====
section
/-!
DEFINITION. The turns of the agents (R59, R60 of spec/20_memory.md): what the host can read, one turn of one agent, and
where the turns come from once a list of them is used up, so that a run need never end (R211 of spec/60_exceptions.md).
-/

namespace Sys2Proof.Machine

/-- What the host can read: `RSP` and `RES0` to `RES3` (R33, R60), the status bits `TME[m]` (R27), `RXLEVEL` and the
write-only `RELEASE`, which reads 0 (R31). -/
inductive HostReg where
  | rsp
  | res (j : Fin 4)
  | tme (m : Fin Config.numMailboxes)
  | rxLevel
  | release
  deriving DecidableEq, Repr

/-- One turn of one agent (R59, R60), or a reset (R220). -/
inductive Event where
  /-- SEQ takes one micro-step. -/
  | seq
  /-- The host writes an argument register (R32). -/
  | hostWriteArg (j : Fin 4) (v : Word)
  /-- The host writes CMD, which issues a command while SEQ is Idle (R77). -/
  | hostWriteCmd (w : Word)
  /-- The host writes a `TME` bit, which has no effect (R27). -/
  | hostWriteTme (m : Fin Config.numMailboxes) (v : Bool)
  /-- The host reads a register (R60). -/
  | hostRead (r : HostReg)
  /-- TxEngine completes mailbox `m` (R124). -/
  | txDone (m : Fin Config.numMailboxes)
  /-- RxEngine delivers four words (R170). -/
  | rxArrive (w : FrameWords)
  /-- The block is reset (R220). -/
  | reset
  deriving DecidableEq, Repr, Inhabited

/-- Where the turns come from when the list of planned turns is used up (log 29). -/
inductive Later where
  /-- The turns are planned again, and again each time they are used up; with no turns in it, every turn is SEQ's. -/
  | again (turns : List Event)
  /-- The next turn is the free choice `Config.freeTurn n`, the one after it `Config.freeTurn (n + 1)`, and so on. -/
  | free (n : Nat)
  deriving DecidableEq, Repr

end Sys2Proof.Machine

/-- Any enabled agent may take the next step (R60), for ever (R211): an endless sequence of turns that has no body, so
that what is proved of a run along it holds whatever the agents do (log 29). -/
opaque Sys2Proof.Config.freeTurn : Nat → Sys2Proof.Machine.Event
end

