-- ==== Sys2Proof/Machine/State.lean ====
section
/-!
DEFINITION. Everything the spec gives the CAN block, as plain data (spec/10_state.md), the turns of the agents still to
come (R60 of spec/20_memory.md, log 2), the reasons a step can stop, and the state after reset (R220 of
spec/70_reset_and_hazards.md).
-/

namespace Sys2Proof.Machine

/-- The four 32-bit registers of one transmit mailbox (R22). `TXRQ` is bit 0 of `tir` (R23), `DLC` is `tdtr[3:0]`
(R24). -/
structure Mailbox where
  tir : Word := 0
  tdtr : Word := 0
  tdlr : Word := 0
  tdhr : Word := 0
  deriving DecidableEq, Repr, Inhabited

/-- The fields of one filter bank (R29). -/
structure Bank where
  act : Bool := false
  msa : Bool := false
  msb : Bool := false
  fid : Word := 0
  fmask : Word := 0
  deriving DecidableEq, Repr, Inhabited

/-- `ARG0` to `ARG3` (R32), and their latched copies (R77). -/
structure Args where
  arg0 : Word := 0
  arg1 : Word := 0
  arg2 : Word := 0
  arg3 : Word := 0
  deriving DecidableEq, Repr, Inhabited

/-- `RES0` to `RES3` (R33). -/
structure Results where
  res0 : Word := 0
  res1 : Word := 0
  res2 : Word := 0
  res3 : Word := 0
  deriving DecidableEq, Repr, Inhabited

/-- The scratch record `snap` of SEQ (R21): `w` is TX's encoded frame (R121), `e` and `r` are RX's head entry and the
frame decoded from it (R174), `c` is FCNT's count (R146). `{}` is the record of a command just issued (log 14). -/
structure Snap where
  w : FrameWords := {}
  e : FrameWords := {}
  r : LogicalFrame := {}
  c : Nat := 0
  deriving DecidableEq, Repr, Inhabited

/-- `Run(op, upc, k, snap)` of SEQ (R21), with the CMD and ARG words latched at issue for the command's duration (R77).
`op` is the op of `cmd` (log 10). `stopped` says that the micro-step faulted: SEQ stays there and takes no further
step (R203, log 4). -/
structure Run where
  cmd : Word
  arg : Args
  upc : Nat := 0
  k : Nat := 0
  snap : Snap := {}
  stopped : Bool := false
  deriving DecidableEq, Repr, Inhabited

/-- `SEQ`, the block's only program counter (R21). -/
inductive Seq where
  | idle
  | run (r : Run)
  deriving DecidableEq, Repr, Inhabited

/-- One element of `FAULTS`, with what R203 (spec/60_exceptions.md) records for its reason. -/
inductive FaultRecord where
  | preconditionViolated (op : Op) (cmd arg0 arg1 arg2 : Word)
  | decodeDlcOutOfRange (op : Op) (words : FrameWords)
  | duplicateFilter (op : Op) (arg0 : Word) (bank : Fin Config.numBanks)
  deriving DecidableEq, Repr

/-- The state of the block. `params` are the parameters of R8 (log 7); `seen` (what the host's reads returned, oldest
first, log 13), `sched` (the turns to come, log 2) and `later` (where the turns after those come from, log 29) are the
model's own fields. -/
structure State where
  params : Params
  seq : Seq
  txmb : Vector Mailbox Config.numMailboxes
  fb : Vector Bank Config.numBanks
  rxq : List FrameWords
  cmd : Word
  arg : Args
  rsp : Word
  res : Results
  faults : List FaultRecord
  refused : Bool
  buslog : List FrameWords
  seen : List Word
  sched : List Event
  later : Later
  deriving DecidableEq, Repr

/-- The reasons a step can stop with a fault. The faults the spec names (R203) are no reasons here: the block goes on
after one, so they are next states (log 4). Each reason below is a position that no run from reset reaches
(Safety's `Inv` rules it out), and stopping there is SAFE (log 6). -/
inductive Fault where
  /-- Raised by a command's meaning called while SEQ is Idle: no command is in progress (R21). Safe. -/
  | sequencerIdle
  /-- Raised by a command's meaning when `upc` names no micro-step of its program (R10, R21). Safe. -/
  | noSuchMicroStep
  /-- Raised by a command's meaning when `k` names no mailbox or no bank (R21). Safe. -/
  | scanIndexOutOfRange
  /-- Raised by RX at upc 1 when the FIFO holds no entry to read (R174: `n ≥ 1` still holds there). Safe. -/
  | emptyFifoRead
  /-- Raised by SEQ's turn when the latched word is no command (R77: issue checks it). Safe. -/
  | latchedWordIllegal
  deriving DecidableEq, Repr

/-- The reasons a step can be refused. A refusal of the spec (R204) sets `REFUSED` and the block goes on, so it is a
next state (log 5). -/
inductive Refusal where
  /-- Raised by `exec` for a command that has no meaning in this model; there is none. Safe. -/
  | notModelled (mnemonic : String)
  deriving DecidableEq, Repr

/-- The answer of a meaning and of a step. -/
abbrev Out := Host.Outcome State Fault Refusal

/-- The block right after reset, at the start of a model run (R220, R34, R35): what R220 calls unspecified is 0
(log 1), the parameters are the defaults of R8, no turn is planned (log 2), and every turn is SEQ's (log 29). -/
def State.reset : State where
  params := Config.defaultParams
  seq := .idle
  txmb := Vector.replicate Config.numMailboxes {}
  fb := Vector.replicate Config.numBanks {}
  rxq := []
  cmd := 0
  arg := {}
  rsp := 0
  res := {}
  faults := []
  refused := false
  buslog := []
  seen := []
  sched := []
  later := .again []

end Sys2Proof.Machine
end

