-- ==== Sys2Proof/Machine/Frame.lean ====
section
/-!
DEFINITION. The Frame Codec's pure functions (spec/41_codec.md): WF (R101), Encode (R102), Decode (R103), the packing of
data bytes (R53, R75), and the reserved bits of frame words (R83, R105).
-/

namespace Sys2Proof.Machine

/-- The identifier is below this bound: 11 bits when standard, 29 when extended (R6). -/
def idBound (ext : Bool) : Nat := if ext then 2 ^ 29 else 2 ^ 11

/-- The largest data-length code of a frame (R6). -/
abbrev maxDlc : Nat := 8

/-- How many data bytes a frame carries: none when remote, else its DLC (R101 point 3, R103). -/
def dataLength (rtr : Bool) (dlc : Nat) : Nat := if rtr then 0 else dlc

/-- `WF(f)`, the three points of R101. -/
def wellFormedFrame (f : LogicalFrame) : Bool :=
  decide (f.id < idBound f.ext) && decide (f.dlc ≤ maxDlc) && decide (f.data.length = dataLength f.rtr f.dlc)

/-- Data byte `i`, 0 past the data's end (R75, R102). -/
def dataByte (data : List Byte) (i : Nat) : Byte := data.getD i 0

/-- Four data bytes from position `i` on, the first in the low bits (R53, R75). -/
def packWord (data : List Byte) (i : Nat) : Word :=
  dataByte data (i + 3) ++ dataByte data (i + 2) ++ dataByte data (i + 1) ++ dataByte data i

/-- `DL`: data bytes 0 to 3 (R75). -/
def packLow (data : List Byte) : Word := packWord data 0

/-- `DH`: data bytes 4 to 7 (R75). -/
def packHigh (data : List Byte) : Word := packWord data 4

/-- The first `n` data bytes of a pair of data words, byte `i` at bits `[8*i+7 : 8*i]` of `DH ++ DL` (R53, R103). -/
def unpackBytes (dh dl : Word) (n : Nat) : List Byte :=
  (List.range n).map fun i => (dh ++ dl : BitVec 64).extractLsb' (8 * i) 8

/-- The ID word of a frame (R71, R72, R102). -/
def encodeId (f : LogicalFrame) : Word :=
  if f.ext then BitVec.ofNat 32 f.id <<< 3 ||| (1 : Word) <<< 2 ||| bitWord f.rtr <<< 1
  else BitVec.ofNat 32 f.id <<< 21 ||| bitWord f.rtr <<< 1

/-- `Encode(f)` (R102); the spec defines it for well-formed frames, and every use here checks that first. -/
def encodeFrame (f : LogicalFrame) : FrameWords where
  idw := encodeId f
  dlw := BitVec.ofNat 32 f.dlc
  dl := packLow f.data
  dh := packHigh f.data

/-- `IDE`, bit 2 of the ID word (R71, R73). -/
def idwIde (idw : Word) : Bool := idw.getLsbD 2

/-- `RTR`, bit 1 of the ID word (R71, R73). -/
def idwRtr (idw : Word) : Bool := idw.getLsbD 1

/-- The identifier an ID word holds: `[31:3]` when extended, else `[31:21]` (R73). -/
def idwId (idw : Word) : Nat :=
  if idwIde idw then (idw.extractLsb' 3 29).toNat else (idw.extractLsb' 21 11).toNat

/-- The DLC field of a DLC word, `DLW[3:0]` (R74). -/
def dlwDlc (dlw : Word) : Nat := (dlw.extractLsb' 0 4).toNat

/-- `Decode(IDW, DLW, DL, DH)` (R103); `none` is the spec's `NONE`. -/
def decodeFrame (w : FrameWords) : Option LogicalFrame :=
  if maxDlc < dlwDlc w.dlw then none
  else some {
    id := idwId w.idw
    ext := idwIde w.idw
    rtr := idwRtr w.idw
    dlc := dlwDlc w.dlw
    data := unpackBytes w.dh w.dl (dataLength (idwRtr w.idw) (dlwDlc w.dlw)) }

/-- The bits of an ID word that are not reserved (R83): all but bit 0, and but `[20:3]` when standard. -/
def idwUsedMask (idw : Word) : Word := if idwIde idw then 0xFFFFFFFE else 0xFFE00006

/-- A data word with the bytes at frame positions `≥ n` cleared; its byte 0 is the frame's byte `base` (R83). -/
def clearBytesFrom (w : Word) (base n : Nat) : Word :=
  let keep (i : Nat) : Byte := if base + i < n then w.extractLsb' (8 * i) 8 else 0
  keep 3 ++ keep 2 ++ keep 1 ++ keep 0

/-- Frame words with their reserved bits (R83) cleared. -/
def clearReserved (w : FrameWords) : FrameWords :=
  let n := dataLength (idwRtr w.idw) (dlwDlc w.dlw)
  { idw := w.idw &&& idwUsedMask w.idw
    dlw := w.dlw &&& 0xF
    dl := clearBytesFrom w.dl 0 n
    dh := clearBytesFrom w.dh 4 n }

/-- A canonical word tuple (R105): its reserved bits are 0 and its DLC is at most 8. -/
def canonical (w : FrameWords) : Bool := decide (clearReserved w = w) && decide (dlwDlc w.dlw ≤ maxDlc)

end Sys2Proof.Machine
end

