-- ==== Sys2Proof/Machine/Flags.lean ====
section
/-!
DEFINITION. The block's flags (R36 of spec/10_state.md): the fields of RSP (R80 of spec/30_encoding.md), TXRQ and TME
(R23, R27), the DLC field of TDTR (R24), RXLEVEL (R31), and how a write of one field leaves the register's others (R52
of spec/20_memory.md).
-/

namespace Sys2Proof.Machine

/-- The status of a response, the field ST of RSP (R80). ERROR is in the type and no rule produces it (R202). -/
inductive Status where
  | ok
  | retryLater
  | error
  deriving DecidableEq, Repr

/-- The value of `ST` (R80). -/
def Status.code : Status → BitVec 2
  | .ok => 0
  | .retryLater => 1
  | .error => 2

/-- `ST`, `RSP[1:0]` (R80). -/
def rspSt (rsp : Word) : BitVec 2 := rsp.extractLsb' 0 2

/-- `PEND`, `RSP[2]` (R80). -/
def rspPend (rsp : Word) : Bool := rsp.getLsbD 2

/-- The reserved field `RSP[15:3]` (R80). -/
def rspReserved (rsp : Word) : BitVec 13 := rsp.extractLsb' 3 13

/-- `ECODE`, `RSP[31:16]` (R80). -/
def rspEcode (rsp : Word) : BitVec 16 := rsp.extractLsb' 16 16

/-- RSP put together from its fields (R80). -/
def rspPack (ecode : BitVec 16) (reserved : BitVec 13) (pend : Bool) (st : BitVec 2) : Word :=
  ecode ++ reserved ++ BitVec.ofBool pend ++ st

/-- RSP after a command is issued: `PEND <- 1`, the other fields as they were (R77, R52). -/
def rspIssue (rsp : Word) : Word := rspPack (rspEcode rsp) (rspReserved rsp) true (rspSt rsp)

/-- RSP after `respond` with `st`: `ST <- st`, `PEND <- 0`, and `ECODE <- 0` unless ERROR (R80). -/
def rspRespond (rsp : Word) (st : Status) : Word :=
  rspPack (if st = .error then rspEcode rsp else 0) (rspReserved rsp) false st.code

/-- `TXRQ`, `TIR[0]` (R23). -/
def Mailbox.txrq (b : Mailbox) : Bool := b.tir.getLsbD 0

/-- `IDW`, `TIR[31:1]` (R23). -/
def Mailbox.idwField (b : Mailbox) : BitVec 31 := b.tir.extractLsb' 1 31

/-- `DLC`, `TDTR[3:0]` (R24). -/
def Mailbox.dlc (b : Mailbox) : BitVec 4 := b.tdtr.extractLsb' 0 4

/-- `TDTR_X`, `TDTR[31:4]` (R24). -/
def Mailbox.tdtrX (b : Mailbox) : BitVec 28 := b.tdtr.extractLsb' 4 28

/-- A write of the field `TXRQ` alone (R52). -/
def Mailbox.withTxrq (b : Mailbox) (v : Bool) : Mailbox := { b with tir := b.idwField ++ BitVec.ofBool v }

/-- A write of the field `DLC` alone (R52). -/
def Mailbox.withDlc (b : Mailbox) (v : BitVec 4) : Mailbox := { b with tdtr := b.tdtrX ++ v }

/-- What TxEngine reads of a mailbox: its ID word with bit 0 cleared, its DLC field widened, its data words (R124). -/
def Mailbox.frameWords (b : Mailbox) : FrameWords where
  idw := b.tir &&& ~~~(1 : Word)
  dlw := b.dlc.setWidth 32
  dl := b.tdlr
  dh := b.tdhr

/-- Mailbox `m` (R22). -/
def State.mailbox (s : State) (m : Fin Config.numMailboxes) : Mailbox := s.txmb[m]

/-- Bank `k` (R28). -/
def State.bank (s : State) (k : Fin Config.numBanks) : Bank := s.fb[k]

/-- `TIR[m].TXRQ`: 1 is Busy, 0 is Free (R23, R26). -/
def State.txrq (s : State) (m : Fin Config.numMailboxes) : Bool := (s.mailbox m).txrq

/-- `TME[m]`, always NOT `TXRQ[m]` (R27). -/
def State.tme (s : State) (m : Fin Config.numMailboxes) : Bool := !s.txrq m

/-- `RXLEVEL`, always the length of RXQ (R31). -/
def State.rxLevel (s : State) : Nat := s.rxq.length

end Sys2Proof.Machine
end

