-- ==== Sys2Proof/Machine/Operands.lean ====
section
/-!
DEFINITION. The operand forms of the commands (R78, R86 of spec/30_encoding.md) and the result forms (R79): which
latched words make a frame, a filter or a word tuple, and how a frame is given back.
-/

namespace Sys2Proof.Machine

/-- The frame of ENC and TX (R86): the identifier is ARG0, the data bytes are the first `min(L, 8)` of `ARG2 ++ ARG1`,
where L is 0 when remote, else `dlc`. -/
def frameOperand (ext rtr : Bool) (dlc : Nat) (a : Args) : LogicalFrame where
  id := a.arg0.toNat
  ext := ext
  rtr := rtr
  dlc := dlc
  data := unpackBytes a.arg2 a.arg1 (min (dataLength rtr dlc) 8)

/-- The four words DEC decodes (R78, R107). -/
def wordsOperand (a : Args) : FrameWords where
  idw := a.arg0
  dlw := a.arg1
  dl := a.arg2
  dh := a.arg3

/-- The filter of FADD and FREM (R86): the mask is ARG1 when the field M is 1, else absent. -/
def filterOperand (hasMask : Bool) (a : Args) : MessageFilter where
  identifier := a.arg0
  mask := if hasMask then some a.arg1 else none

/-- The mask a bank is programmed with: all ones when the filter gives none (R140). -/
def filterMask (flt : MessageFilter) : Word := flt.mask.getD 0xFFFFFFFF

/-- The result registers of ENC (R79). -/
def encodedResults (w : FrameWords) : Results where
  res0 := w.idw
  res1 := w.dlw
  res2 := w.dl
  res3 := w.dh

/-- The frame descriptor of `RES1`: `ext` at bit 4, `rtr` at bit 5, `dlc` at `[11:8]` (R79, R107). -/
def frameDescriptor (f : LogicalFrame) : Word :=
  bitWord f.ext <<< 4 ||| bitWord f.rtr <<< 5 ||| BitVec.ofNat 32 f.dlc <<< 8

/-- The result registers of DEC and RX (R79). -/
def decodedResults (f : LogicalFrame) : Results where
  res0 := BitVec.ofNat 32 f.id
  res1 := frameDescriptor f
  res2 := packLow f.data
  res3 := packHigh f.data

/-- Argument register `j` (R32). -/
def Args.get (a : Args) (j : Fin 4) : Word :=
  match j with
  | 0 => a.arg0
  | 1 => a.arg1
  | 2 => a.arg2
  | 3 => a.arg3

/-- A write of argument register `j` alone (R32, R52). -/
def Args.set (a : Args) (j : Fin 4) (v : Word) : Args :=
  match j with
  | 0 => { a with arg0 := v }
  | 1 => { a with arg1 := v }
  | 2 => { a with arg2 := v }
  | 3 => { a with arg3 := v }

/-- Result register `j` (R33). -/
def Results.get (r : Results) (j : Fin 4) : Word :=
  match j with
  | 0 => r.res0
  | 1 => r.res1
  | 2 => r.res2
  | 3 => r.res3

end Sys2Proof.Machine
end

