-- ==== Sys2Proof/Machine/Ops.lean ====
section
/-!
DEFINITION. The named operations every meaning is made of: the field writes (R51, R52 of spec/20_memory.md), the moves of
SEQ (R21), the response (R79, R80), the fault (R203) and the refusal (R204), the issue of a command (R77), and the
searches over mailboxes and banks. A fault is what this block has in the place of an exception, and `raiseFault` is the
one operation that takes it. There is no trap entry and no return (R206, R207).
-/

namespace Sys2Proof.Machine

/-- Mailbox `m` changed by a field write, every other mailbox as it was. -/
def State.updMailbox (s : State) (m : Fin Config.numMailboxes) (f : Mailbox → Mailbox) : State :=
  { s with txmb := s.txmb.set m.val (f (s.mailbox m)) m.isLt }

/-- Bank `k` changed by a field write, every other bank as it was. -/
def State.updBank (s : State) (k : Fin Config.numBanks) (f : Bank → Bank) : State :=
  { s with fb := s.fb.set k.val (f (s.bank k)) k.isLt }

/-- `MemWrite(TIR[m], v)`: the whole word (R121 upc 2). -/
def State.writeTir (s : State) (m : Fin Config.numMailboxes) (v : Word) : State :=
  s.updMailbox m fun b => { b with tir := v }

/-- `MemWrite(TDTR[m].DLC, v)`: the field alone (R24, R52). -/
def State.writeDlc (s : State) (m : Fin Config.numMailboxes) (v : BitVec 4) : State :=
  s.updMailbox m fun b => b.withDlc v

/-- `MemWrite(TDLR[m], v)` (R25). -/
def State.writeTdlr (s : State) (m : Fin Config.numMailboxes) (v : Word) : State :=
  s.updMailbox m fun b => { b with tdlr := v }

/-- `MemWrite(TDHR[m], v)` (R25). -/
def State.writeTdhr (s : State) (m : Fin Config.numMailboxes) (v : Word) : State :=
  s.updMailbox m fun b => { b with tdhr := v }

/-- `MemWrite(TIR[m].TXRQ, v)`: the field alone (R23, R52). -/
def State.writeTxrq (s : State) (m : Fin Config.numMailboxes) (v : Bool) : State :=
  s.updMailbox m fun b => b.withTxrq v

/-- `MemWrite(FB[k].MSA, v)` (R29). -/
def State.writeMsa (s : State) (k : Fin Config.numBanks) (v : Bool) : State :=
  s.updBank k fun b => { b with msa := v }

/-- `MemWrite(FB[k].MSB, v)` (R29). -/
def State.writeMsb (s : State) (k : Fin Config.numBanks) (v : Bool) : State :=
  s.updBank k fun b => { b with msb := v }

/-- `MemWrite(FB[k].FID, v)` (R29). -/
def State.writeFid (s : State) (k : Fin Config.numBanks) (v : Word) : State :=
  s.updBank k fun b => { b with fid := v }

/-- `MemWrite(FB[k].FMASK, v)` (R29). -/
def State.writeFmask (s : State) (k : Fin Config.numBanks) (v : Word) : State :=
  s.updBank k fun b => { b with fmask := v }

/-- `MemWrite(FB[k].ACT, v)` (R29). -/
def State.writeAct (s : State) (k : Fin Config.numBanks) (v : Bool) : State :=
  s.updBank k fun b => { b with act := v }

/-- `MemWrite(RELEASE, v)` (R31): a 1 removes the head of RXQ, if it has one, and a 0 does nothing. -/
def State.writeRelease (s : State) (v : Bool) : State :=
  { s with rxq := if v then s.rxq.tail else s.rxq }

/-- A write of a `TME` bit has no effect (R27). -/
def State.writeTme (s : State) (_m : Fin Config.numMailboxes) (_v : Bool) : State := s

/-- SEQ goes on in the command with the position `r`. -/
def State.continueAt (s : State) (r : Run) : State := { s with seq := .run r }

/-- `respond(st)` of a command that gives no results (R79, R80, R33): RSP is written, the result registers keep their
values, and SEQ is Idle again. -/
def State.respond (s : State) (st : Status) : State :=
  { s with rsp := rspRespond s.rsp st, seq := .idle }

/-- `respond(OK, results)` (R79, R80). -/
def State.respondResults (s : State) (res : Results) : State :=
  { s.respond .ok with res := res }

/-- `FAULTS` with one more record: a set (R34), held as a list with no repeats, in the order raised (log 15). -/
def insertFault (rec : FaultRecord) (faults : List FaultRecord) : List FaultRecord :=
  if rec ∈ faults then faults else faults ++ [rec]

/-- `raise Fault(reason)` (R203): the record is added to FAULTS, SEQ stays at the micro-step and takes no further step,
no register is written, and `RSP.PEND` stays as it is. -/
def State.raiseFault (s : State) (r : Run) (rec : FaultRecord) : State :=
  { s with seq := .run { r with stopped := true }, faults := insertFault rec s.faults }

/-- The record of a frame that is not well formed (R203). -/
def preconditionRecord (op : Op) (r : Run) : FaultRecord :=
  .preconditionViolated op r.cmd r.arg.arg0 r.arg.arg1 r.arg.arg2

/-- `refuse` (R204): the mark is set and nothing else changes. -/
def State.refuse (s : State) : State := { s with refused := true }

/-- The issue of the legal word `w` (R77): CMD holds it, `PEND <- 1`, `SEQ <- Run(op, 0, 0, {})`, and CMD and ARG0 to
ARG3 are latched. -/
def State.issue (s : State) (w : Word) : State :=
  { s with cmd := w, rsp := rspIssue s.rsp, seq := .run { cmd := w, arg := s.arg } }

/-- One micro-step of the command in progress: `body` gets SEQ's position. A stopped SEQ takes no further step (R203);
with SEQ Idle there is no micro-step to take. -/
def microStep (s : State) (body : Run → Out) : Out :=
  match s.seq with
  | .idle => .fault .sequencerIdle
  | .run r => if r.stopped then .next s else body r

/-- `k` as the index of a mailbox or a bank (R21). -/
def withIndex (n k : Nat) (body : Fin n → Out) : Out :=
  if h : k < n then body ⟨k, h⟩ else .fault .scanIndexOutOfRange

/-- `if k < last then k <- k + 1; pc <- upc else` end with `done`: the shared end of a scan's micro-step (R121, R141,
R144, R145, R146). -/
def scanOn (s : State) (r : Run) (n upc : Nat) (done : State) : Out :=
  if r.k < n - 1 then .next (s.continueAt { r with k := r.k + 1, upc := upc }) else .next done

/-- The lowest bank that `p` holds of, if one does. -/
def State.lowestBank (s : State) (p : Bank → Bool) : Option (Fin Config.numBanks) :=
  (List.finRange Config.numBanks).find? fun k => p (s.bank k)

/-- The bank is active and holds this identifier (R143, R144). -/
def Bank.holds (fid : Word) (b : Bank) : Bool := b.act && b.fid == fid

/-- How many banks are inactive (R146). -/
def State.inactiveBanks (s : State) : Nat :=
  (List.finRange Config.numBanks).countP fun k => !(s.bank k).act

/-- `FirstFree` (R120): the lowest mailbox whose `TXRQ` is 0. -/
def firstFree (t0 t1 t2 : Bool) : Option (Fin Config.numMailboxes) :=
  if !t0 then some 0 else if !t1 then some 1 else if !t2 then some 2 else none

end Sys2Proof.Machine
end

