-- ==== Sys2Proof/Machine/Arbiter.lean ====
section
/-!
DEFINITION. The Mailbox Arbiter's command TX (R121 of spec/42_mailbox_arbiter.md), micro-step by micro-step.
-/

namespace Sys2Proof.Machine

/-- TX (R121): the check, the scan (upc 1), the four data writes (upc 2 to 5), and the request flag last (upc 6). -/
def execTx (ext rtr : Bool) (dlc : Nat) (s : State) : Out :=
  microStep s fun r =>
    match r.upc with
    | 0 =>
      let f := frameOperand ext rtr dlc r.arg
      if wellFormedFrame f then
        .next (s.continueAt { r with upc := 1, k := 0, snap := { r.snap with w := encodeFrame f } })
      else .next (s.raiseFault r (preconditionRecord .tx r))
    | 1 => withIndex Config.numMailboxes r.k fun m =>
      if s.txrq m then scanOn s r Config.numMailboxes 1 (s.respond .retryLater)
      else .next (s.continueAt { r with upc := 2 })
    | 2 => withIndex Config.numMailboxes r.k fun m =>
      .next ((s.writeTir m r.snap.w.idw).continueAt { r with upc := 3 })
    | 3 => withIndex Config.numMailboxes r.k fun m =>
      .next ((s.writeDlc m (r.snap.w.dlw.extractLsb' 0 4)).continueAt { r with upc := 4 })
    | 4 => withIndex Config.numMailboxes r.k fun m =>
      .next ((s.writeTdlr m r.snap.w.dl).continueAt { r with upc := 5 })
    | 5 => withIndex Config.numMailboxes r.k fun m =>
      .next ((s.writeTdhr m r.snap.w.dh).continueAt { r with upc := 6 })
    | 6 => withIndex Config.numMailboxes r.k fun m =>
      .next ((s.writeTxrq m true).respond .ok)
    | _ => .fault .noSuchMicroStep

end Sys2Proof.Machine
end

