-- ==== Sys2Proof/Machine/Codec.lean ====
section
/-!
DEFINITION. The Frame Codec's commands ENC and DEC (R106, R107 of spec/41_codec.md), one micro-step each.
-/

namespace Sys2Proof.Machine

/-- ENC (R106). -/
def execEnc (ext rtr : Bool) (dlc : Nat) (s : State) : Out :=
  microStep s fun r =>
    match r.upc with
    | 0 =>
      let f := frameOperand ext rtr dlc r.arg
      if wellFormedFrame f then .next (s.respondResults (encodedResults (encodeFrame f)))
      else .next (s.raiseFault r (preconditionRecord .enc r))
    | _ => .fault .noSuchMicroStep

/-- DEC (R107). -/
def execDec (s : State) : Out :=
  microStep s fun r =>
    match r.upc with
    | 0 =>
      match decodeFrame (wordsOperand r.arg) with
      | none => .next (s.raiseFault r (.decodeDlcOutOfRange .dec (wordsOperand r.arg)))
      | some f => .next (s.respondResults (decodedResults f))
    | _ => .fault .noSuchMicroStep

end Sys2Proof.Machine
end

