-- ==== Sys2Proof/Machine/Filters.lean ====
section
/-!
DEFINITION. The Filter Bank Manager's commands FADD, FREM, FCLR and FCNT (R141 to R146 of spec/43_filter_banks.md),
micro-step by micro-step.
-/

namespace Sys2Proof.Machine

/-- FADD (R141, R142, R143): the duplicate check, the scan (upc 1), the four fields (upc 2 to 5), activation last
(upc 6). -/
def execFadd (hasMask : Bool) (s : State) : Out :=
  microStep s fun r =>
    let flt := filterOperand hasMask r.arg
    match r.upc with
    | 0 =>
      match s.lowestBank (Bank.holds flt.identifier) with
      | some j => .next (s.raiseFault r (.duplicateFilter .fadd flt.identifier j))
      | none => .next (s.continueAt { r with upc := 1, k := 0 })
    | 1 => withIndex Config.numBanks r.k fun k =>
      if (s.bank k).act then scanOn s r Config.numBanks 1 (s.respond .ok)
      else .next (s.continueAt { r with upc := 2 })
    | 2 => withIndex Config.numBanks r.k fun k =>
      .next ((s.writeMsa k s.params.modeselA).continueAt { r with upc := 3 })
    | 3 => withIndex Config.numBanks r.k fun k =>
      .next ((s.writeMsb k s.params.modeselB).continueAt { r with upc := 4 })
    | 4 => withIndex Config.numBanks r.k fun k =>
      .next ((s.writeFid k flt.identifier).continueAt { r with upc := 5 })
    | 5 => withIndex Config.numBanks r.k fun k =>
      .next ((s.writeFmask k (filterMask flt)).continueAt { r with upc := 6 })
    | 6 => withIndex Config.numBanks r.k fun k =>
      .next ((s.writeAct k true).respond .ok)
    | _ => .fault .noSuchMicroStep

/-- FREM (R144): the lowest active bank with the identifier loses its activation flag. -/
def execFrem (s : State) : Out :=
  microStep s fun r =>
    let flt := filterOperand false r.arg
    match r.upc with
    | 0 => .next (s.continueAt { r with upc := 1, k := 0 })
    | 1 => withIndex Config.numBanks r.k fun k =>
      if (s.bank k).act then .next (s.continueAt { r with upc := 2 })
      else scanOn s r Config.numBanks 1 (s.respond .ok)
    | 2 => withIndex Config.numBanks r.k fun k =>
      if (s.bank k).fid = flt.identifier then .next (s.continueAt { r with upc := 3 })
      else scanOn s r Config.numBanks 1 (s.respond .ok)
    | 3 => withIndex Config.numBanks r.k fun k =>
      .next ((s.writeAct k false).respond .ok)
    | _ => .fault .noSuchMicroStep

/-- FCLR (R145): one activation flag cleared in each micro-step, in ascending order. -/
def execFclr (s : State) : Out :=
  microStep s fun r =>
    match r.upc with
    | 0 => withIndex Config.numBanks r.k fun k =>
      let s' := s.writeAct k false
      scanOn s' r Config.numBanks 0 (s'.respond .ok)
    | _ => .fault .noSuchMicroStep

/-- FCNT (R146): one activation flag read in each micro-step, the inactive ones counted. -/
def execFcnt (s : State) : Out :=
  microStep s fun r =>
    match r.upc with
    | 0 => withIndex Config.numBanks r.k fun k =>
      let c := if (s.bank k).act then r.snap.c else r.snap.c + 1
      scanOn s { r with snap := { r.snap with c := c } } Config.numBanks 0
        (s.respondResults { s.res with res0 := BitVec.ofNat 32 c })
    | _ => .fault .noSuchMicroStep

end Sys2Proof.Machine
end

