-- ==== Sys2Proof/Machine/Receive.lean ====
section
/-!
DEFINITION. The receive path's command RX (R174 of spec/44_receive.md), and the acceptance of an incoming frame (R172,
R173).
-/

namespace Sys2Proof.Machine

/-- RX (R174): the level (upc 0), the head entry read and decoded (upc 1), the release and the response (upc 2). -/
def execRx (s : State) : Out :=
  microStep s fun r =>
    match r.upc with
    | 0 =>
      if s.rxLevel = 0 then .next (s.respond .retryLater)
      else .next (s.continueAt { r with upc := 1 })
    | 1 =>
      match s.rxq with
      | [] => .fault .emptyFifoRead
      | e :: _ =>
        match decodeFrame e with
        | none =>
          .next (s.raiseFault { r with snap := { r.snap with e := e } } (.decodeDlcOutOfRange .rx e))
        | some f =>
          .next (s.continueAt { r with upc := 2, snap := { r.snap with e := e, r := f } })
    | 2 => .next ((s.writeRelease true).respondResults (decodedResults r.snap.r))
    | _ => .fault .noSuchMicroStep

/-- The default `P_MATCH` (R173): a mask bit of 1 compares, a mask bit of 0 does not. -/
def matchMaskFormula (fid fmask idw : Word) : Bool := ((idw ^^^ fid) &&& fmask) == 0

/-- `P_MATCH` (R172): the default, or a function that the block does not fix beyond requirement 2 of R172, which holds
of it by its first branch (log 9). -/
def matchBank (p : Params) (msa msb : Bool) (fid fmask idw : Word) : Bool :=
  match p.matching with
  | .maskFormula => matchMaskFormula fid fmask idw
  | .other =>
    if fmask = 0xFFFFFFFF ∧ msa = p.modeselA ∧ msb = p.modeselB then idw == fid
    else Config.matchOther msa msb fid fmask idw

/-- One bank admits the ID word: it is active and matches (R172). -/
def bankAdmits (p : Params) (idw : Word) (b : Bank) : Bool :=
  b.act && matchBank p b.msa b.msb b.fid b.fmask idw

/-- `P_ACCEPT(FB, idw)` (R172): some active bank matches. -/
def State.accepts (s : State) (idw : Word) : Bool :=
  (List.finRange Config.numBanks).any fun k => bankAdmits s.params idw (s.bank k)

end Sys2Proof.Machine
end

