-- ==== Sys2Proof/Machine/Dispatch.lean ====
section
/-!
DEFINITION. One micro-step of a command: one arm for each row of the opcode table, each one call of the command's
meaning.
-/

namespace Sys2Proof.Machine

def exec (i : Instr) (s : State) : Host.Outcome State Fault Refusal :=
  match i with
  | .enc ext rtr dlc => Sys2Proof.Machine.execEnc ext rtr dlc s
  | .dec => Sys2Proof.Machine.execDec s
  | .tx ext rtr dlc => Sys2Proof.Machine.execTx ext rtr dlc s
  | .rx => Sys2Proof.Machine.execRx s
  | .fadd hasMask => Sys2Proof.Machine.execFadd hasMask s
  | .frem => Sys2Proof.Machine.execFrem s
  | .fclr => Sys2Proof.Machine.execFclr s
  | .fcnt => Sys2Proof.Machine.execFcnt s

end Sys2Proof.Machine
end

