-- ==== Sys2Proof/Machine/Sequencer.lean ====
section
/-!
DEFINITION. SEQ's turn (R21 of spec/10_state.md, R60 of spec/20_memory.md): the latched CMD word is decoded and one
micro-step of its command runs. Also the views of SEQ and the load of a command.
-/

namespace Sys2Proof.Machine

/-- The command in progress: what the latched CMD word decodes to, none while SEQ is Idle (R21, R77). -/
def State.current (s : State) : Option Instr :=
  match s.seq with
  | .idle => none
  | .run r =>
    match decode r.cmd with
    | .ok i => some i
    | .error _ => none

/-- The `op` of `SEQ = Run(op, upc, k, snap)` (R21); a view of the latched CMD (log 10). -/
def State.seqOp (s : State) : Option Op := s.current.map Instr.op

/-- SEQ's turn: one micro-step of the command in progress; nothing while Idle, where no micro-step is enabled
(log 3). -/
def seqTurn (s : State) : Out :=
  match s.seq with
  | .idle => .next s
  | .run r =>
    match decode r.cmd with
    | .ok i => exec i s
    | .error _ => .fault .latchedWordIllegal

/-- The state whose very next step runs the word `w` (log 17): a legal word is issued and the next turn is SEQ's; an
illegal one is the host's next write of CMD. -/
def State.loadCommand (s : State) (w : Word) : State :=
  match decode w with
  | .ok _ => { s.issue w with sched := .seq :: s.sched }
  | .error _ => { s with seq := .idle, sched := .hostWriteCmd w :: s.sched }

end Sys2Proof.Machine
end

