-- ==== Sys2Proof/Machine/Environment.lean ====
section
/-!
DEFINITION. The turns of the other agents (R59, R60 of spec/20_memory.md): the host's register accesses (R77, R204,
R224), TxEngine's completion (R124), RxEngine's arrival (R170), and the reset (R220). `runEvent` is one turn of any
agent.
-/

namespace Sys2Proof.Machine

/-- A host write of CMD: a legal word issues its command while SEQ is Idle (R77); an illegal word, or any word while
SEQ is not Idle, is refused (R204). -/
def State.hostWriteCmd (s : State) (w : Word) : State :=
  match s.seq with
  | .run _ => s.refuse
  | .idle =>
    match decode w with
    | .ok _ => s.issue w
    | .error _ => s.refuse

/-- A host write of an argument register (R32); a command in progress has its own latched copy (R77, log 11). -/
def State.hostWriteArg (s : State) (j : Fin 4) (v : Word) : State := { s with arg := s.arg.set j v }

/-- The value a host read returns; no read changes the block (R56). -/
def State.readReg (s : State) (r : HostReg) : Word :=
  match r with
  | .rsp => s.rsp
  | .res j => s.res.get j
  | .tme m => bitWord (s.tme m)
  | .rxLevel => BitVec.ofNat 32 s.rxLevel
  | .release => 0

/-- A host read: the value goes to the host (log 13), nothing of the block changes (R56). -/
def State.hostRead (s : State) (r : HostReg) : State := { s with seen := s.seen ++ [s.readReg r] }

/-- `TXDONE(m)` (R124): enabled while mailbox `m` is Busy; the frame goes to BUSLOG and the mailbox is Free. A Free
mailbox has no completion, and the turn changes nothing (log 3). -/
def State.txDone (s : State) (m : Fin Config.numMailboxes) : State :=
  if s.txrq m then
    { s.writeTxrq m false with buslog := s.buslog ++ [(s.mailbox m).frameWords] }
  else s

/-- The FIFO after an admitted frame (R170): appended while there is room, else as `P_RX_OVERRUN` says. -/
def enqueue (p : Params) (q : List FrameWords) (w : FrameWords) : List FrameWords :=
  if q.length < p.rxDepth then q ++ [w]
  else match p.rxOverrun with
    | .discardNew => q
    | .overwriteLast => q.dropLast ++ [w]

/-- `RXARRIVE(w)` (R170). -/
def State.rxArrive (s : State) (w : FrameWords) : State :=
  if s.accepts w.idw then { s with rxq := enqueue s.params s.rxq w } else s

/-- The reset event (R220): every hardware element at its reset value; FAULTS, REFUSED and BUSLOG are kept, and so are
the parameters and the model's own fields (log 16). -/
def State.resetBlock (s : State) : State :=
  { State.reset with
    params := s.params
    faults := s.faults
    refused := s.refused
    buslog := s.buslog
    seen := s.seen
    sched := s.sched
    later := s.later }

/-- One turn of one agent (R60). -/
def runEvent (e : Event) (s : State) : Out :=
  match e with
  | .seq => seqTurn s
  | .hostWriteArg j v => .next (s.hostWriteArg j v)
  | .hostWriteCmd w => .next (s.hostWriteCmd w)
  | .hostWriteTme m v => .next (s.writeTme m v)
  | .hostRead r => .next (s.hostRead r)
  | .txDone m => .next (s.txDone m)
  | .rxArrive w => .next (s.rxArrive w)
  | .reset => .next s.resetBlock

/-- The turn that comes next (R60): the first one planned; where none is, the first of those to be planned again, or the
free choice, or SEQ's (logs 2 and 29). -/
def State.nextTurn (s : State) : Event :=
  match s.sched with
  | e :: _ => e
  | [] =>
    match s.later with
    | .again [] => .seq
    | .again (e :: _) => e
    | .free n => Config.freeTurn n

/-- The state once that turn is taken from the plan, and before the agent acts. -/
def State.takeTurn (s : State) : State :=
  match s.sched with
  | _ :: rest => { s with sched := rest }
  | [] =>
    match s.later with
    | .again [] => s
    | .again (_ :: rest) => { s with sched := rest }
    | .free n => { s with later := .free (n + 1) }

end Sys2Proof.Machine
end

