-- ==== Sys2Proof/Machine/Step.lean ====
section
/-!
DEFINITION. One step of the block (R60 of spec/20_memory.md), and the state in which a given word is the next to run.
-/

namespace Sys2Proof.Machine

/-- One step (R60): the agent whose turn comes next acts. It never wants for a turn, so a run need not end (R211). -/
def step (s : State) : Host.Outcome State Fault Refusal := runEvent s.nextTurn s.takeTurn

/-- `s` with the command word `w` loaded, so that the very next step runs it (log 17). -/
def State.withFetchWord (s : State) (nbits w : Nat) : State := s.loadCommand (tableWord nbits w)

end Sys2Proof.Machine
end

