-- ==== Sys2Proof/Machine/Assembler.lean ====
section
/-!
DEFINITION. The assembler syntax (R85 of spec/30_encoding.md) as data: each form of a command with its operands, the
check its byte list must pass, and the CMD fields and argument words it stands for. The two engine events of R85 are
turns of the engines and have no command word.
-/

namespace Sys2Proof.Machine

/-- A command as R85 writes it: `.S` or `.X` is `ext`, the suffix `.R` is the remote form, and the operand count of
FADD says whether a mask is given. -/
inductive AsmCommand where
  | enc (ext : Bool) (id : Word) (dlc : Nat) (bytes : List Byte)
  | encRemote (ext : Bool) (id : Word) (dlc : Nat)
  | tx (ext : Bool) (id : Word) (dlc : Nat) (bytes : List Byte)
  | txRemote (ext : Bool) (id : Word) (dlc : Nat)
  | dec (idw dlw dl dh : Word)
  | rx
  | fadd (fid : Word) (mask : Option Word)
  | frem (fid : Word)
  | fclr
  | fcnt
  deriving DecidableEq, Repr

/-- The byte list of a data frame has exactly `dlc` entries (R85), at most the eight the argument words hold, and the
`dlc` of a remote frame fits the field D (R77). -/
def AsmCommand.valid : AsmCommand → Bool
  | .enc _ _ dlc bytes => decide (bytes.length = dlc) && decide (dlc ≤ maxDlc)
  | .encRemote _ _ dlc => decide (dlc ≤ maxDlcField)
  | .tx _ _ dlc bytes => decide (bytes.length = dlc) && decide (dlc ≤ maxDlc)
  | .txRemote _ _ dlc => decide (dlc ≤ maxDlcField)
  | .dec _ _ _ _ => true
  | .rx => true
  | .fadd _ _ => true
  | .frem _ => true
  | .fclr => true
  | .fcnt => true

/-- The argument words of a frame (R85): `ARG0 = id`, the bytes in `ARG1:ARG2`, 0 past their end. -/
def frameArgs (id : Word) (bytes : List Byte) : Args where
  arg0 := id
  arg1 := packLow bytes
  arg2 := packHigh bytes

/-- The command and the argument words of a line (R85); an argument register the command does not read is 0 here. -/
def assemble : AsmCommand → Instr × Args
  | .enc ext id dlc bytes => (.enc ext false dlc, frameArgs id bytes)
  | .encRemote ext id dlc => (.enc ext true dlc, frameArgs id [])
  | .tx ext id dlc bytes => (.tx ext false dlc, frameArgs id bytes)
  | .txRemote ext id dlc => (.tx ext true dlc, frameArgs id [])
  | .dec idw dlw dl dh => (.dec, { arg0 := idw, arg1 := dlw, arg2 := dl, arg3 := dh })
  | .rx => (.rx, {})
  | .fadd fid none => (.fadd false, { arg0 := fid })
  | .fadd fid (some mask) => (.fadd true, { arg0 := fid, arg1 := mask })
  | .frem fid => (.frem, { arg0 := fid })
  | .fclr => (.fclr, {})
  | .fcnt => (.fcnt, {})

end Sys2Proof.Machine
end

