-- ==== Sys2Proof/Safety.lean ====
section
/-!
DEFINITION. What counts as a safe run, and the terms the statements use: a run without a fault or a refusal (R203, R204
of spec/60_exceptions.md), the invariant `Inv`, the micro-step bounds of R230 (spec/70_reset_and_hazards.md), a host's
script of turns (R224), and the agreement of two states on all but unspecified fields (R37 of spec/10_state.md).
-/

namespace Sys2Proof.Machine

/-- The state counts as a success: no fault is recorded (R203) and nothing was refused (R204). -/
abbrev State.successful (s : State) : Prop := s.faults = [] ∧ s.refused = false

/-- RSP holds a response a command of this block can give (R80, R202): the reserved field and ECODE are 0, and ST is OK
or RETRY_LATER. -/
abbrev rspLegal (rsp : Word) : Prop :=
  rspReserved rsp = 0 ∧ rspEcode rsp = 0 ∧ (rspSt rsp = 0 ∨ rspSt rsp = 1)

/-- From `s` to `t` a command gave the response `st` (R79, R80): SEQ is Idle, PEND is 0, and ECODE is 0. -/
abbrev Responded (s t : State) (st : Status) : Prop :=
  t.seq = .idle ∧ rspSt t.rsp = st.code ∧ rspPend t.rsp = false ∧ rspEcode t.rsp = 0 ∧
    rspReserved t.rsp = rspReserved s.rsp

/-- From `s` to `t` the micro-step at `r` raised the fault `rec` (R203): the record is in FAULTS, SEQ stays there and is
stopped, and nothing else changed, `RSP.PEND` and every register among it. -/
abbrev Faulted (s t : State) (r : Run) (rec : FaultRecord) : Prop :=
  (∀ x, x ∈ t.faults ↔ x = rec ∨ x ∈ s.faults) ∧
  t = { s with seq := .run { r with stopped := true }, faults := t.faults }

/-- No agent but SEQ has a turn: none is planned, and none is to be planned later (logs 2 and 29). -/
abbrev State.seqOnly (s : State) : Prop := s.sched = [] ∧ s.later = .again []

/-- Every mailbox but `m` is as before. -/
abbrev OnlyMailbox (s t : State) (m : Fin Config.numMailboxes) : Prop :=
  ∀ j, j ≠ m → t.mailbox j = s.mailbox j

/-- Every bank but `k` is as before. -/
abbrev OnlyBank (s t : State) (k : Fin Config.numBanks) : Prop :=
  ∀ j, j ≠ k → t.bank j = s.bank j

/-- SEQ is at micro-step `upc` of a command and has not faulted. -/
abbrev State.atStep (s : State) (r : Run) (upc : Nat) : Prop :=
  s.seq = .run r ∧ r.stopped = false ∧ r.upc = upc

/-- No two active banks hold the same identifier (R150). -/
abbrev State.uniqueFilters (s : State) : Prop :=
  ∀ j k : Fin Config.numBanks, (s.bank j).act = true → (s.bank k).act = true →
    (s.bank j).fid = (s.bank k).fid → j = k

/-- Every active bank holds the selection values FADD writes (R147). -/
abbrev State.selectedBanks (s : State) : Prop :=
  ∀ k : Fin Config.numBanks, (s.bank k).act = true →
    (s.bank k).msa = s.params.modeselA ∧ (s.bank k).msb = s.params.modeselB

/-- What holds between the micro-steps of TX (R121): the frame was checked, the scan index names a mailbox, and from
upc 2 on the mailbox is Free and holds the words written so far. -/
abbrev txPosition (ext rtr : Bool) (dlc : Nat) (r : Run) (s : State) : Prop :=
  let f := frameOperand ext rtr dlc r.arg
  r.upc ≤ 6 ∧ r.k < Config.numMailboxes ∧ (r.stopped = true → r.upc = 0) ∧
  (1 ≤ r.upc → wellFormedFrame f = true ∧ r.snap.w = encodeFrame f) ∧
  ∀ m : Fin Config.numMailboxes, m.val = r.k →
    (2 ≤ r.upc → s.txrq m = false) ∧
    (3 ≤ r.upc → (s.mailbox m).tir = (encodeFrame f).idw) ∧
    (4 ≤ r.upc → (s.mailbox m).dlc = (encodeFrame f).dlw.extractLsb' 0 4) ∧
    (5 ≤ r.upc → (s.mailbox m).tdlr = (encodeFrame f).dl) ∧
    (6 ≤ r.upc → (s.mailbox m).tdhr = (encodeFrame f).dh)

/-- What holds between the micro-steps of RX (R174): after upc 0 the FIFO is not empty; at upc 2 the frame in `snap` is
the decoded entry, and that entry is still the head, unless an arrival took its place in a FIFO of one entry under
OverwriteLast (R66). -/
abbrev rxPosition (r : Run) (s : State) : Prop :=
  r.upc ≤ 2 ∧ (r.stopped = true → r.upc = 1) ∧ (1 ≤ r.upc → s.rxq ≠ []) ∧
  (2 ≤ r.upc → decodeFrame r.snap.e = some r.snap.r ∧
    (s.rxq.head? = some r.snap.e ∨ (s.params.rxDepth = 1 ∧ s.params.rxOverrun = .overwriteLast)))

/-- What holds between the micro-steps of FADD (R141): no active bank holds the identifier, every bank below the scan
index is active, and from upc 2 on the bank is inactive and holds the fields written so far. -/
abbrev faddPosition (hasMask : Bool) (r : Run) (s : State) : Prop :=
  let flt := filterOperand hasMask r.arg
  r.upc ≤ 6 ∧ r.k < Config.numBanks ∧ (r.stopped = true → r.upc = 0) ∧
  (1 ≤ r.upc → (∀ j : Fin Config.numBanks, (s.bank j).holds flt.identifier = false) ∧
    ∀ j : Fin Config.numBanks, j.val < r.k → (s.bank j).act = true) ∧
  ∀ k : Fin Config.numBanks, k.val = r.k →
    (2 ≤ r.upc → (s.bank k).act = false) ∧
    (3 ≤ r.upc → (s.bank k).msa = s.params.modeselA) ∧
    (4 ≤ r.upc → (s.bank k).msb = s.params.modeselB) ∧
    (5 ≤ r.upc → (s.bank k).fid = flt.identifier) ∧
    (6 ≤ r.upc → (s.bank k).fmask = filterMask flt)

/-- What holds between the micro-steps of FREM (R144): no active bank below the scan index holds the identifier; at
upc 2 and 3 the bank is active, and at upc 3 it holds the identifier. -/
abbrev fremPosition (r : Run) (s : State) : Prop :=
  r.upc ≤ 3 ∧ r.k < Config.numBanks ∧ r.stopped = false ∧
  (1 ≤ r.upc → ∀ j : Fin Config.numBanks, j.val < r.k → (s.bank j).holds r.arg.arg0 = false) ∧
  ∀ k : Fin Config.numBanks, k.val = r.k →
    (2 ≤ r.upc → (s.bank k).act = true) ∧ (3 ≤ r.upc → (s.bank k).fid = r.arg.arg0)

/-- What holds between the micro-steps of FCLR (R145): every bank below the index is inactive. -/
abbrev fclrPosition (r : Run) (s : State) : Prop :=
  r.upc = 0 ∧ r.k < Config.numBanks ∧ r.stopped = false ∧
  ∀ j : Fin Config.numBanks, j.val < r.k → (s.bank j).act = false

/-- What holds between the micro-steps of FCNT (R146): the count is that of the inactive banks below the index. -/
abbrev fcntPosition (r : Run) (s : State) : Prop :=
  r.upc = 0 ∧ r.k < Config.numBanks ∧ r.stopped = false ∧
  r.snap.c = ((List.finRange Config.numBanks).take r.k).countP fun j => !(s.bank j).act

/-- The position of SEQ is one that the command's program reaches. -/
abbrev inPosition (i : Instr) (r : Run) (s : State) : Prop :=
  match i with
  | .enc _ _ _ => r.upc = 0
  | .dec => r.upc = 0
  | .tx ext rtr dlc => txPosition ext rtr dlc r s
  | .rx => rxPosition r s
  | .fadd hasMask => faddPosition hasMask r s
  | .frem => fremPosition r s
  | .fclr => fclrPosition r s
  | .fcnt => fcntPosition r s

/-- SEQ and RSP fit together (R33, R77): PEND is 1 exactly while a command is in progress, and a command in progress is
a legal one at a position of its program. -/
abbrev State.seqSound (s : State) : Prop :=
  match s.seq with
  | .idle => rspPend s.rsp = false
  | .run r =>
    rspPend s.rsp = true ∧
    match decode r.cmd with
    | .ok i => inPosition i r s
    | .error _ => False

/-- The invariant of the block: it rules out the states no run reaches. -/
structure Inv (s : State) : Prop where
  rsp : rspLegal s.rsp
  seq : s.seqSound
  depth : 1 ≤ s.params.rxDepth
  fifo : s.rxq.length ≤ s.params.rxDepth
  unique : s.uniqueFilters
  selected : s.selectedBanks
  faultSet : s.faults.Nodup

/-- A command's worst case in micro-steps (R230). -/
def maxMicroSteps : Op → Nat
  | .enc => 1
  | .dec => 1
  | .tx => 9
  | .rx => 3
  | .fadd => 34
  | .frem => 58
  | .fclr => 28
  | .fcnt => 28

/-- The command has ended, or a fault has stopped it (R200, R203). -/
abbrev State.ended (s : State) : Prop :=
  match s.seq with
  | .idle => True
  | .run r => r.stopped = true

/-- `n` steps, stopping at the first that answers no next state. -/
def runSteps : Nat → State → Out
  | 0, s => .next s
  | n + 1, s =>
    match step s with
    | .next t => runSteps n t
    | .fault f => .fault f
    | .refused f => .refused f

/-- A state of some run from reset, for any parameters with a FIFO of at least one entry (R8) and any turns of the
agents. -/
def Reachable (t : State) : Prop :=
  ∃ (p : Params) (turns : List Event) (later : Later) (n : Nat), 1 ≤ p.rxDepth ∧
    runSteps n { State.reset with params := p, sched := turns, later := later } = .next t

/-- A host that follows R224: it writes the argument registers, then CMD, and the command runs for its worst case with
no other agent's turn between. A turn of SEQ after the response changes nothing. -/
def hostScript (i : Instr) (a : Args) : List Event :=
  [.hostWriteArg 0 a.arg0, .hostWriteArg 1 a.arg1, .hostWriteArg 2 a.arg2, .hostWriteArg 3 a.arg3,
    .hostWriteCmd (encode i)] ++ List.replicate (maxMicroSteps i.op) .seq

/-- How many of a mailbox's four fields (IDW, DLC, TDLR, TDHR, in this order) are specified: all while it is Busy, and
those TX has written so far while TX programs it. -/
def State.specifiedMailboxFields (s : State) (m : Fin Config.numMailboxes) : Nat :=
  if s.txrq m then 4
  else match s.seq, s.seqOp with
    | .run r, some .tx => if r.k = m.val then r.upc - 2 else 0
    | _, _ => 0

/-- How many of a bank's four fields (MSA, MSB, FID, FMASK, in this order) are specified: all while it is active, and
those FADD has written so far while FADD programs it. -/
def State.specifiedBankFields (s : State) (k : Fin Config.numBanks) : Nat :=
  if (s.bank k).act then 4
  else match s.seq, s.seqOp with
    | .run r, some .fadd => if r.k = k.val then r.upc - 2 else 0
    | _, _ => 0

/-- Two states agree on everything but fields whose value is unspecified (R37): the fields of a mailbox or a bank that
nothing has written since reset or since it was freed, `TDTR_X`, and the register CMD, which only the host writes. -/
structure AgreeOnSpecified (s t : State) : Prop where
  others : t = { s with txmb := t.txmb, fb := t.fb, cmd := t.cmd }
  txrq : ∀ m, s.txrq m = t.txrq m
  idw : ∀ m, 1 ≤ s.specifiedMailboxFields m → (s.mailbox m).idwField = (t.mailbox m).idwField
  dlc : ∀ m, 2 ≤ s.specifiedMailboxFields m → (s.mailbox m).dlc = (t.mailbox m).dlc
  tdlr : ∀ m, 3 ≤ s.specifiedMailboxFields m → (s.mailbox m).tdlr = (t.mailbox m).tdlr
  tdhr : ∀ m, 4 ≤ s.specifiedMailboxFields m → (s.mailbox m).tdhr = (t.mailbox m).tdhr
  act : ∀ k, (s.bank k).act = (t.bank k).act
  msa : ∀ k, 1 ≤ s.specifiedBankFields k → (s.bank k).msa = (t.bank k).msa
  msb : ∀ k, 2 ≤ s.specifiedBankFields k → (s.bank k).msb = (t.bank k).msb
  fid : ∀ k, 3 ≤ s.specifiedBankFields k → (s.bank k).fid = (t.bank k).fid
  fmask : ∀ k, 4 ≤ s.specifiedBankFields k → (s.bank k).fmask = (t.bank k).fmask

end Sys2Proof.Machine
end

