-- ==== Sys2Proof/Certificates/Slice0/Obligations.lean ====
section
/-!
DEFINITION. The statements for the provers. Each formalises what a rule of spec/ says a command or the block does, over
every state. Where a statement rests on one of the model's own choices, its docstring names the log entry.
-/

open Sys2Proof Sys2Proof.Machine

/-! ## The command word -/

/-- CMD words written out from R77 and R81 (spec/30_encoding.md) and from the words of 95_test_vectors.md (K1 to K9, P1)
decode to the commands they stand for, or are rejected for their reason. -/
def Obligations.SpecWordsDecode : Prop :=
  decode 0x00000201 = .ok (.enc false false 2) ∧
  decode 0x00000F31 = .ok (.enc true true 15) ∧
  decode 0x00000002 = .ok .dec ∧
  decode 0x00000813 = .ok (.tx true false 8) ∧
  decode 0x00000423 = .ok (.tx false true 4) ∧
  decode 0x00000004 = .ok .rx ∧
  decode 0x00000005 = .ok (.fadd false) ∧
  decode 0x00001005 = .ok (.fadd true) ∧
  decode 0x00000006 = .ok .frem ∧
  decode 0x00000007 = .ok .fclr ∧
  decode 0x00000008 = .ok .fcnt ∧
  decode 0x00000000 = .error .reservedOpcode ∧
  decode 0x00000009 = .error .reservedOpcode ∧
  decode 0x00000041 = .error .reservedBits ∧
  decode 0x00002001 = .error .reservedBits ∧
  decode 0x00001003 = .error .unusedField ∧
  decode 0x00000105 = .error .unusedField ∧
  decode 0x00000014 = .error .unusedField

/-- Every well-formed command, with every value its fields admit, is what its own CMD word decodes to. -/
def Obligations.DecodeOfEncodeIsTheCommand : Prop :=
  ∀ i : Instr, i.wellFormed = true → decode (encode i) = .ok i

/-- The CMD word of a command as a number, from the places of R77 and the opcodes of R81; and a word that decodes to a
command is that command's word, so no legal word has a second meaning. -/
def Obligations.CommandWordLayout : Prop :=
  (∀ (ext rtr : Bool) (dlc : Nat), dlc ≤ 15 →
    (encode (.enc ext rtr dlc)).toNat = 1 + 16 * ext.toNat + 32 * rtr.toNat + 256 * dlc ∧
    (encode (.tx ext rtr dlc)).toNat = 3 + 16 * ext.toNat + 32 * rtr.toNat + 256 * dlc) ∧
  (∀ hasMask : Bool, (encode (.fadd hasMask)).toNat = 5 + 4096 * hasMask.toNat) ∧
  (encode .dec).toNat = 2 ∧ (encode .rx).toNat = 4 ∧ (encode .frem).toNat = 6 ∧ (encode .fclr).toNat = 7 ∧
  (encode .fcnt).toNat = 8 ∧
  ∀ (w : Word) (i : Instr), decode w = .ok i → encode i = w ∧ i.wellFormed = true

/-- R82: a word is illegal when its opcode is reserved or when it sets a bit its opcode does not use; equivalently it is
legal exactly when it matches a row of the opcode table, and then a row of its own command only. An illegal word
starts no command and is refused. The fields are written here as digits of the number (R9, R77). -/
def Obligations.LegalWordsAreTheTableRows : Prop :=
  ∀ w : Word,
    let opc := w.toNat % 16
    let x := w.toNat / 16 % 2
    let r := w.toNat / 32 % 2
    let d := w.toNat / 256 % 16
    let m := w.toNat / 4096 % 2
    ((∃ i, decode w = .ok i) ↔
      (1 ≤ opc ∧ opc ≤ 8) ∧ w.toNat / 64 % 4 = 0 ∧ w.toNat / 8192 = 0 ∧
      (opc = 1 ∨ opc = 3 → m = 0) ∧ (opc = 5 → x = 0 ∧ r = 0 ∧ d = 0) ∧
      (opc ≠ 1 → opc ≠ 3 → opc ≠ 5 → x = 0 ∧ r = 0 ∧ d = 0 ∧ m = 0)) ∧
    ((∃ i, decode w = .ok i) ↔ ∃ row ∈ opcodeTable, row.matchesWord w = true) ∧
    (∀ i, decode w = .ok i → ∀ row ∈ opcodeTable, row.matchesWord w = true → row.op = i.op) ∧
    ((¬ ∃ i, decode w = .ok i) → ∀ s : State, s.seq = .idle →
      runEvent (.hostWriteCmd w) s = .next { s with refused := true })

/-! ## The codec's functions -/

/-- R101: the three points of a well-formed frame. -/
def Obligations.WellFormedFrameBounds : Prop :=
  ∀ f : LogicalFrame, wellFormedFrame f = true ↔
    (f.id < if f.ext then 2 ^ 29 else 2 ^ 11) ∧ f.dlc ≤ 8 ∧
    (f.rtr = true → f.data.length = 0) ∧ (f.rtr = false → f.data.length = f.dlc)

/-- R86: a legal ENC or TX word asks for the frame of its fields and arguments: its `min(L, 8)` data bytes are byte `i` of
`ARG2 ++ ARG1` by R75, so only the identifier and the DLC can make it ill formed. A FADD or FREM word asks for the filter
of ARG0, with the mask ARG1 only where FADD's bit 12 is 1. -/
def Obligations.FrameOperandFromArguments : Prop :=
  ∀ (ext rtr : Bool) (dlc : Nat) (a : Args),
    let f := frameOperand ext rtr dlc a
    f.id = a.arg0.toNat ∧ f.ext = ext ∧ f.rtr = rtr ∧ f.dlc = dlc ∧
    f.data.length = min (if rtr then 0 else dlc) 8 ∧
    (∀ i : Nat, i < f.data.length →
      f.data[i]? = some ((if i < 4 then a.arg1 else a.arg2).extractLsb' (8 * (i % 4)) 8)) ∧
    (wellFormedFrame f = true ↔ (a.arg0.toNat < if ext then 2 ^ 29 else 2 ^ 11) ∧ dlc ≤ 8) ∧
    (∀ w : Word, decode w = .ok (.enc ext rtr dlc) ∨ decode w = .ok (.tx ext rtr dlc) →
      f.ext = w.getLsbD 4 ∧ f.rtr = w.getLsbD 5 ∧ f.dlc = (w.extractLsb' 8 4).toNat) ∧
    (∀ (w : Word) (hasMask : Bool), decode w = .ok (.fadd hasMask) →
      filterOperand hasMask a = ⟨a.arg0, if w.getLsbD 12 then some a.arg1 else none⟩) ∧
    filterOperand false a = ⟨a.arg0, none⟩

/-- Decoding an encoded well-formed frame gives it back: the spec's inference R104, the source's round trip. -/
def Obligations.FrameRoundTrip : Prop :=
  ∀ f : LogicalFrame, wellFormedFrame f = true → decodeFrame (encodeFrame f) = some f

/-- R103: decode gives no frame exactly when the DLC field is above 8; else a well-formed frame whose fields are the bits
of R73, R74 and R75, the words' other bits ignored. -/
def Obligations.DecodedFrameFields : Prop :=
  ∀ w : FrameWords,
    (8 < w.dlw.toNat % 16 → decodeFrame w = none) ∧
    (w.dlw.toNat % 16 ≤ 8 → ∃ f, decodeFrame w = some f ∧ wellFormedFrame f = true ∧
      f.dlc = w.dlw.toNat % 16 ∧ f.ext = w.idw.getLsbD 2 ∧ f.rtr = w.idw.getLsbD 1 ∧
      f.id = (if w.idw.getLsbD 2 then w.idw.toNat / 2 ^ 3 else w.idw.toNat / 2 ^ 21) ∧
      f.data.length = (if w.idw.getLsbD 1 then 0 else w.dlw.toNat % 16) ∧
      ∀ i : Nat, i < f.data.length →
        f.data[i]? = some ((if i < 4 then w.dl else w.dh).extractLsb' (8 * (i % 4)) 8))

/-- The spec's inference R105: encode undoes decode on canonical words, and on any words with a DLC of at most 8 it gives
them with their reserved bits (R83) cleared; words that differ only in reserved bits decode to the same frame. -/
def Obligations.CanonicalWordsRoundTrip : Prop :=
  (∀ w : FrameWords, dlwDlc w.dlw ≤ 8 → ∃ f, decodeFrame w = some f ∧ encodeFrame f = clearReserved w) ∧
  (∀ w : FrameWords, canonical w = true → ∃ f, decodeFrame w = some f ∧ encodeFrame f = w) ∧
  (∀ v w : FrameWords, clearReserved v = clearReserved w → decodeFrame v = decodeFrame w)

/-- R71 and R72: the fields of an encoded ID word, as digits of the number: the identifier in the high bits, IDE at
bit 2, RTR at bit 1, 0 in bit 0 and in the extended part of a standard word. -/
def Obligations.EncodedIdWordLayout : Prop :=
  ∀ f : LogicalFrame, wellFormedFrame f = true →
    let idw := (encodeFrame f).idw
    (f.ext = false → idw.toNat = f.id * 2 ^ 21 + 2 * f.rtr.toNat ∧ idw.extractLsb' 3 18 = 0 ∧
      (idw.extractLsb' 21 11).toNat = f.id) ∧
    (f.ext = true → idw.toNat = f.id * 2 ^ 3 + 4 + 2 * f.rtr.toNat ∧ (idw.extractLsb' 3 29).toNat = f.id) ∧
    idw.getLsbD 2 = f.ext ∧ idw.getLsbD 1 = f.rtr ∧ idw.getLsbD 0 = false

/-- R75: `DL` is bytes 3 to 0 and `DH` bytes 7 to 4, the lower byte in the lower bits; a byte position past the data is 0
on encode, and decode ignores it: words that agree on the bytes below the data length, which is 0 for a remote frame,
decode alike. -/
def Obligations.EncodedDataWordLayout : Prop :=
  (∀ f : LogicalFrame, wellFormedFrame f = true →
    let w := encodeFrame f
    let b (i : Nat) : Byte := f.data.getD i 0
    w.dl = b 3 ++ b 2 ++ b 1 ++ b 0 ∧ w.dh = b 7 ++ b 6 ++ b 5 ++ b 4 ∧
    ∀ i : Nat, f.data.length ≤ i → i < 8 → (if i < 4 then w.dl else w.dh).extractLsb' (8 * (i % 4)) 8 = 0) ∧
  ∀ v w : FrameWords, v.idw = w.idw → v.dlw = w.dlw →
    (∀ i : Nat, i < dataLength (idwRtr w.idw) (dlwDlc w.dlw) → i < 8 →
      (if i < 4 then v.dl else v.dh).extractLsb' (8 * (i % 4)) 8 =
        (if i < 4 then w.dl else w.dh).extractLsb' (8 * (i % 4)) 8) →
    decodeFrame v = decodeFrame w

/-- R79: a result of DEC or RX, issued again as a TX by `CMD = 0x3 | RES1` with `ARG0..2 = RES0, RES2, RES3`, asks for
the frame that was decoded. -/
def Obligations.ReissuedResultIsTheFrame : Prop :=
  ∀ f : LogicalFrame, wellFormedFrame f = true → ∀ arg3 : Word,
    let res := decodedResults f
    decode (0x3 ||| res.res1) = .ok (.tx f.ext f.rtr f.dlc) ∧
    frameOperand f.ext f.rtr f.dlc ⟨res.res0, res.res2, res.res3, arg3⟩ = f

/-- The assembler forms of R85: the fields of the CMD word that each line stands for, the argument words, and the frame,
the filter or the words that those two together ask for. A valid line has a CMD word of exactly these fields. That the
DLC of a valid data line is at most 8, as its bytes must fit the two argument words, is log 28. -/
def Obligations.AssembledCommandMeansItsOperands : Prop :=
  (∀ c : AsmCommand, (assemble c).1 =
    match c with
    | .enc ext _ dlc _ => .enc ext false dlc
    | .encRemote ext _ dlc => .enc ext true dlc
    | .tx ext _ dlc _ => .tx ext false dlc
    | .txRemote ext _ dlc => .tx ext true dlc
    | .dec _ _ _ _ => .dec
    | .rx => .rx
    | .fadd _ mask => .fadd mask.isSome
    | .frem _ => .frem
    | .fclr => .fclr
    | .fcnt => .fcnt) ∧
  (∀ c : AsmCommand, c.valid = true → decode (encode (assemble c).1) = .ok (assemble c).1) ∧
  (∀ (ext : Bool) (id : Word) (dlc : Nat) (bytes : List Byte) (c : AsmCommand) (x r : Bool) (d : Nat),
    c = .enc ext id dlc bytes ∨ c = .tx ext id dlc bytes → c.valid = true →
    (assemble c).1 = .enc x r d ∨ (assemble c).1 = .tx x r d →
    frameOperand x r d (assemble c).2 = ⟨id.toNat, ext, false, dlc, bytes⟩) ∧
  (∀ (ext : Bool) (id : Word) (dlc : Nat) (c : AsmCommand) (x r : Bool) (d : Nat),
    c = .encRemote ext id dlc ∨ c = .txRemote ext id dlc →
    (assemble c).1 = .enc x r d ∨ (assemble c).1 = .tx x r d →
    frameOperand x r d (assemble c).2 = ⟨id.toNat, ext, true, dlc, []⟩ ∧
      (assemble c).2.arg1 = 0 ∧ (assemble c).2.arg2 = 0) ∧
  (∀ (fid : Word) (mask : Option Word) (hasMask : Bool), (assemble (.fadd fid mask)).1 = .fadd hasMask →
    filterOperand hasMask (assemble (.fadd fid mask)).2 = ⟨fid, mask⟩) ∧
  (∀ fid : Word, filterOperand false (assemble (.frem fid)).2 = ⟨fid, none⟩) ∧
  (∀ idw dlw dl dh : Word, wordsOperand (assemble (.dec idw dlw dl dh)).2 = ⟨idw, dlw, dl, dh⟩)

/-! ## ENC and DEC -/

/-- ENC (R106): from its only micro-step, a well-formed frame gives its encoded words in RES0 to RES3 and the response
OK, with no data words for a remote frame or a DLC of 0; a standard identifier from 0x800 up, an extended one from
0x20000000 up, or a DLC above 8 is the fault PreconditionViolated. Nothing else changes. -/
def Obligations.EncRespondsOrFaults : Prop :=
  (∀ (ext rtr : Bool) (dlc : Nat), dlc ≤ 15 → encode (.enc ext rtr dlc) &&& 0xFFFFF0CF = 0x00000001) ∧
  ∀ (s : State) (r : Run) (ext rtr : Bool) (dlc : Nat), s.atStep r 0 →
    let f := frameOperand ext rtr dlc r.arg
    (wellFormedFrame f = false ↔
      (ext = false ∧ 0x800 ≤ r.arg.arg0) ∨ (ext = true ∧ 0x20000000 ≤ r.arg.arg0) ∨ 8 < dlc) ∧
    (wellFormedFrame f = true → ∃ t, exec (.enc ext rtr dlc) s = .next t ∧ Responded s t .ok ∧
      t.res = ⟨(encodeFrame f).idw, (encodeFrame f).dlw, (encodeFrame f).dl, (encodeFrame f).dh⟩ ∧
      (rtr = true ∨ dlc = 0 → t.res.res2 = 0 ∧ t.res.res3 = 0) ∧
      t = { s with seq := .idle, rsp := t.rsp, res := t.res }) ∧
    (wellFormedFrame f = false → ∃ t, exec (.enc ext rtr dlc) s = .next t ∧
      Faulted s t r (.preconditionViolated .enc r.cmd r.arg.arg0 r.arg.arg1 r.arg.arg2))

/-- DEC (R107): from its only micro-step, words with a DLC field of at most 8 give the frame's fields in RES0 to RES3 and
the response OK; else the fault DecodeDlcOutOfRange. Nothing else changes. -/
def Obligations.DecRespondsOrFaults : Prop :=
  encode .dec = 0x00000002 ∧
  ∀ (s : State) (r : Run), s.atStep r 0 →
    let w : FrameWords := ⟨r.arg.arg0, r.arg.arg1, r.arg.arg2, r.arg.arg3⟩
    (decodeFrame w = none ↔ 8 < r.arg.arg1.toNat % 16) ∧
    (∀ f, decodeFrame w = some f → ∃ t, exec .dec s = .next t ∧ Responded s t .ok ∧
      t.res.res0.toNat = f.id ∧
      t.res.res1.toNat = 16 * f.ext.toNat + 32 * f.rtr.toNat + 256 * f.dlc ∧
      t.res.res2 = packLow f.data ∧ t.res.res3 = packHigh f.data ∧
      t = { s with seq := .idle, rsp := t.rsp, res := t.res }) ∧
    (decodeFrame w = none → ∃ t, exec .dec s = .next t ∧ Faulted s t r (.decodeDlcOutOfRange .dec w))

/-! ## TX and the mailboxes -/

/-- TX (R121), micro-step by micro-step: the check, the scan, the four data writes and the request flag last, each
writing its one field and nothing else; RETRY_LATER at the end of a scan that found no Free mailbox. -/
def Obligations.TxMicroSteps : Prop :=
  (∀ (ext rtr : Bool) (dlc : Nat), dlc ≤ 15 → encode (.tx ext rtr dlc) &&& 0xFFFFF0CF = 0x00000003) ∧
  ∀ (s : State) (r : Run) (ext rtr : Bool) (dlc : Nat),
    let i : Instr := .tx ext rtr dlc
    let f := frameOperand ext rtr dlc r.arg
    (s.atStep r 0 → wellFormedFrame f = true → exec i s =
      .next { s with seq := .run { r with upc := 1, k := 0, snap := { r.snap with w := encodeFrame f } } }) ∧
    (s.atStep r 0 → wellFormedFrame f = false → ∃ t, exec i s = .next t ∧
      Faulted s t r (.preconditionViolated .tx r.cmd r.arg.arg0 r.arg.arg1 r.arg.arg2)) ∧
    ∀ m : Fin Config.numMailboxes, m.val = r.k →
      (s.atStep r 1 → s.txrq m = false → exec i s = .next { s with seq := .run { r with upc := 2 } }) ∧
      (s.atStep r 1 → s.txrq m = true → r.k < 2 →
        exec i s = .next { s with seq := .run { r with upc := 1, k := r.k + 1 } }) ∧
      (s.atStep r 1 → s.txrq m = true → r.k = 2 → ∃ t, exec i s = .next t ∧ Responded s t .retryLater ∧
        t = { s with seq := .idle, rsp := t.rsp }) ∧
      (s.atStep r 2 → ∃ t, exec i s = .next t ∧ t.mailbox m = { s.mailbox m with tir := r.snap.w.idw } ∧
        OnlyMailbox s t m ∧ t = { s with seq := .run { r with upc := 3 }, txmb := t.txmb }) ∧
      (s.atStep r 3 → ∃ t, exec i s = .next t ∧
        (t.mailbox m).dlc = r.snap.w.dlw.extractLsb' 0 4 ∧ (t.mailbox m).tdtrX = (s.mailbox m).tdtrX ∧
        t.mailbox m = { s.mailbox m with tdtr := (t.mailbox m).tdtr } ∧
        OnlyMailbox s t m ∧ t = { s with seq := .run { r with upc := 4 }, txmb := t.txmb }) ∧
      (s.atStep r 4 → ∃ t, exec i s = .next t ∧ t.mailbox m = { s.mailbox m with tdlr := r.snap.w.dl } ∧
        OnlyMailbox s t m ∧ t = { s with seq := .run { r with upc := 5 }, txmb := t.txmb }) ∧
      (s.atStep r 5 → ∃ t, exec i s = .next t ∧ t.mailbox m = { s.mailbox m with tdhr := r.snap.w.dh } ∧
        OnlyMailbox s t m ∧ t = { s with seq := .run { r with upc := 6 }, txmb := t.txmb }) ∧
      (s.atStep r 6 → ∃ t, exec i s = .next t ∧ Responded s t .ok ∧
        t.txrq m = true ∧ (t.mailbox m).idwField = (s.mailbox m).idwField ∧
        t.mailbox m = { s.mailbox m with tir := (t.mailbox m).tir } ∧
        OnlyMailbox s t m ∧ t = { s with seq := .idle, rsp := t.rsp, txmb := t.txmb })

/-- A whole TX with no other agent's turn: `FirstFree` (R120) is the lowest Free mailbox; the frame lands there, Busy, in
7 micro-steps and one more for each Busy mailbox scanned, and every other mailbox, bank and register is as before; with
none Free, RETRY_LATER after 4 micro-steps and no mailbox changes. -/
def Obligations.TxFillsTheFirstFreeMailbox : Prop :=
  (∀ t0 t1 t2 : Bool,
    firstFree t0 t1 t2 = if t0 = false then some 0 else if t1 = false then some 1
      else if t2 = false then some 2 else none) ∧
  ∀ (s : State) (ext rtr : Bool) (dlc : Nat), s.seqOnly → dlc ≤ 15 →
    let f := frameOperand ext rtr dlc s.arg
    let cmd := encode (.tx ext rtr dlc)
    wellFormedFrame f = true →
    (∀ m, firstFree (s.txrq 0) (s.txrq 1) (s.txrq 2) = some m →
      ∃ t, runSteps (7 + m.val) (s.issue cmd) = .next t ∧ Responded s t .ok ∧
        t.mailbox m = ⟨(encodeFrame f).idw ||| 1, (t.mailbox m).tdtr, (encodeFrame f).dl, (encodeFrame f).dh⟩ ∧
        (t.mailbox m).dlc = BitVec.ofNat 4 f.dlc ∧ (t.mailbox m).tdtrX = (s.mailbox m).tdtrX ∧
        OnlyMailbox s t m ∧ t = { s with cmd := cmd, seq := .idle, rsp := t.rsp, txmb := t.txmb }) ∧
    (firstFree (s.txrq 0) (s.txrq 1) (s.txrq 2) = none →
      ∃ t, runSteps 4 (s.issue cmd) = .next t ∧ Responded s t .retryLater ∧
        t = { s with cmd := cmd, seq := .idle, rsp := t.rsp })

/-- R122: a TX that responds RETRY_LATER writes no mailbox field: the response comes from upc 1 alone, the micro-steps up
to there write no mailbox, and the micro-step pointer never goes back to upc 1 from a later one. -/
def Obligations.TxRetryLaterWritesNoMailbox : Prop :=
  ∀ (s t : State) (r : Run) (ext rtr : Bool) (dlc : Nat), s.seq = .run r → r.stopped = false →
    exec (.tx ext rtr dlc) s = .next t →
    (r.upc ≤ 1 → t.txmb = s.txmb) ∧
    (t.seq = .idle → rspSt t.rsp = Status.retryLater.code → r.upc = 1) ∧
    (∀ r', t.seq = .run r' → r.upc ≤ r'.upc)

/-- The spec's inference R123: while a mailbox is Busy, no turn of any agent but a reset changes its identifier, its DLC
or its data words. -/
def Obligations.BusyMailboxKeepsItsWords : Prop :=
  ∀ (s t : State) (m : Fin Config.numMailboxes), Inv s → s.nextTurn ≠ .reset → s.txrq m = true →
    step s = .next t →
    (t.mailbox m).idwField = (s.mailbox m).idwField ∧ (t.mailbox m).dlc = (s.mailbox m).dlc ∧
    (t.mailbox m).tdlr = (s.mailbox m).tdlr ∧ (t.mailbox m).tdhr = (s.mailbox m).tdhr

/-- R126: no command clears a request flag; a Busy mailbox becomes Free by its own TXDONE (R124), or by a reset
(R220). -/
def Obligations.OnlyCompletionFreesAMailbox : Prop :=
  ∀ (s t : State) (m : Fin Config.numMailboxes), Inv s → s.txrq m = true →
    (∀ i, s.current = some i → exec i s = .next t → t.txrq m = true) ∧
    (step s = .next t → t.txrq m = false →
      s.nextTurn = .txDone m ∨ s.nextTurn = .reset)

/-- R225: a request flag is set only when the four mailbox words are those of the frame asked for: what TxEngine would
then read is exactly the encoded frame. -/
def Obligations.RequestFlagIsSetLast : Prop :=
  ∀ (s t : State) (m : Fin Config.numMailboxes), Inv s → s.txrq m = false → step s = .next t → t.txrq m = true →
    ∃ r ext rtr dlc, s.seq = .run r ∧ decode r.cmd = .ok (.tx ext rtr dlc) ∧
      wellFormedFrame (frameOperand ext rtr dlc r.arg) = true ∧
      (t.mailbox m).frameWords = encodeFrame (frameOperand ext rtr dlc r.arg)

/-- TXDONE (R124): a Busy mailbox's words, bit 0 cleared and the DLC field widened, are appended to BUSLOG and its
request flag is cleared, nothing else changing; on a Free mailbox the event is not enabled, and the turn changes
nothing (log 3). -/
def Obligations.CompletionLogsAndFrees : Prop :=
  ∀ (s : State) (m : Fin Config.numMailboxes),
    (s.txrq m = true → ∃ t, runEvent (.txDone m) s = .next t ∧ t.txrq m = false ∧
      t.buslog = s.buslog ++ [⟨(s.mailbox m).tir &&& 0xFFFFFFFE, ((s.mailbox m).dlc).setWidth 32,
        (s.mailbox m).tdlr, (s.mailbox m).tdhr⟩] ∧
      (t.mailbox m).idwField = (s.mailbox m).idwField ∧
      t.mailbox m = { s.mailbox m with tir := (t.mailbox m).tir } ∧
      OnlyMailbox s t m ∧ t = { s with txmb := t.txmb, buslog := t.buslog }) ∧
    (s.txrq m = false → runEvent (.txDone m) s = .next s)

/-- The spec's inference R127, the source's mailbox exhaustion: three TX of well-formed frames from all Free land in
mailboxes 0, 1 and 2; a fourth responds RETRY_LATER and all three keep their contents. -/
def Obligations.MailboxExhaustion : Prop :=
  ∀ (s : State) (ext rtr : Fin 4 → Bool) (dlc : Fin 4 → Nat) (a : Fin 4 → Args),
    let f (j : Fin 4) := frameOperand (ext j) (rtr j) (dlc j) (a j)
    let script (j : Fin 4) := hostScript (.tx (ext j) (rtr j) (dlc j)) (a j)
    s.seq = .idle → (∀ m, s.txrq m = false) → (∀ j, wellFormedFrame (f j) = true) →
    s.sched = script 0 ++ script 1 ++ script 2 ++ script 3 →
    ∃ t, runSteps (script 0 ++ script 1 ++ script 2).length s = .next t ∧ Responded s t .ok ∧
      (t.mailbox 0).frameWords = encodeFrame (f 0) ∧ (t.mailbox 1).frameWords = encodeFrame (f 1) ∧
      (t.mailbox 2).frameWords = encodeFrame (f 2) ∧ (∀ m, t.txrq m = true) ∧
      ∃ u, runSteps (script 3).length t = .next u ∧ Responded t u .retryLater ∧ u.txmb = t.txmb

/-- From command to bus: a TX of a well-formed frame with a Free mailbox, then that mailbox's completion, appends exactly
the encoded frame to BUSLOG, and the words decode to the frame (R121, R124, R104). -/
def Obligations.TransmittedFrameReachesTheBus : Prop :=
  ∀ (s : State) (ext rtr : Bool) (dlc : Nat) (a : Args) (m : Fin Config.numMailboxes),
    let f := frameOperand ext rtr dlc a
    let script := hostScript (.tx ext rtr dlc) a ++ [.txDone m]
    s.seq = .idle → wellFormedFrame f = true → s.sched = script →
    firstFree (s.txrq 0) (s.txrq 1) (s.txrq 2) = some m →
    ∃ t, runSteps script.length s = .next t ∧ t.buslog = s.buslog ++ [encodeFrame f] ∧
      decodeFrame (encodeFrame f) = some f ∧ ∀ j, t.txrq j = s.txrq j

/-! ## RX and the engines' arrivals -/

/-- RX (R174), micro-step by micro-step: RETRY_LATER on an empty FIFO; else the head entry is read and decoded, a DLC
field above 8 being the fault DecodeDlcOutOfRange with the entry left in the FIFO; then the head is released and the
frame is the result. Nothing else changes. -/
def Obligations.RxMicroSteps : Prop :=
  encode .rx = 0x00000004 ∧
  ∀ (s : State) (r : Run),
    (s.atStep r 0 → s.rxq = [] → ∃ t, exec .rx s = .next t ∧ Responded s t .retryLater ∧
      t = { s with seq := .idle, rsp := t.rsp }) ∧
    (s.atStep r 0 → s.rxq ≠ [] → exec .rx s = .next { s with seq := .run { r with upc := 1 } }) ∧
    (∀ e q f, s.atStep r 1 → s.rxq = e :: q → decodeFrame e = some f →
      exec .rx s = .next { s with seq := .run { r with upc := 2, snap := { r.snap with e := e, r := f } } }) ∧
    (∀ e q, s.atStep r 1 → s.rxq = e :: q → decodeFrame e = none → ∃ t, exec .rx s = .next t ∧
      Faulted s t { r with snap := { r.snap with e := e } } (.decodeDlcOutOfRange .rx e)) ∧
    (∀ e q, s.atStep r 2 → s.rxq = e :: q → wellFormedFrame r.snap.r = true →
      ∃ t, exec .rx s = .next t ∧ Responded s t .ok ∧ t.rxq = q ∧
        t.res.res0.toNat = r.snap.r.id ∧
        t.res.res1.toNat = 16 * r.snap.r.ext.toNat + 32 * r.snap.r.rtr.toNat + 256 * r.snap.r.dlc ∧
        t.res.res2 = packLow r.snap.r.data ∧ t.res.res3 = packHigh r.snap.r.data ∧
        t = { s with seq := .idle, rsp := t.rsp, res := t.res, rxq := q })

/-- RXARRIVE (R170): a frame no active bank admits changes nothing; an admitted one is appended while there is room, else
dropped under DiscardNew, or takes the last entry's place under OverwriteLast. Nothing else changes. Any four words
arrive: no bit of them is restricted. -/
def Obligations.ArrivalAtTheFifo : Prop :=
  ∀ (s : State) (w : FrameWords),
    (s.accepts w.idw = false → runEvent (.rxArrive w) s = .next s) ∧
    (s.accepts w.idw = true → s.rxq.length < s.params.rxDepth →
      runEvent (.rxArrive w) s = .next { s with rxq := s.rxq ++ [w] }) ∧
    (s.accepts w.idw = true → s.params.rxDepth ≤ s.rxq.length → s.params.rxOverrun = .discardNew →
      runEvent (.rxArrive w) s = .next s) ∧
    (∀ q e, s.accepts w.idw = true → s.params.rxDepth ≤ s.rxq.length → s.params.rxOverrun = .overwriteLast →
      s.rxq = q ++ [e] → runEvent (.rxArrive w) s = .next { s with rxq := q ++ [w] })

/-- R172: a frame is admitted exactly when some active bank matches its ID word; under all-ones mask and FADD's selection
values a bank matches exactly its identifier, whatever function `P_MATCH` is (log 9). So an inactive bank never admits,
and with no active bank nothing is admitted. -/
def Obligations.AcceptanceByActiveBanks : Prop :=
  (∀ (s : State) (idw : Word), s.accepts idw = true ↔
    ∃ k : Fin Config.numBanks, (s.bank k).act = true ∧
      matchBank s.params (s.bank k).msa (s.bank k).msb (s.bank k).fid (s.bank k).fmask idw = true) ∧
  ∀ (p : Params) (fid idw : Word),
    matchBank p p.modeselA p.modeselB fid 0xFFFFFFFF idw = true ↔ idw = fid

/-- R173: the default match compares the bits whose mask bit is 1 and no other bit, ignores the selection fields, and
meets requirement 2 of R172. -/
def Obligations.DefaultMatchComparesMaskedBits : Prop :=
  ∀ (p : Params), p.matching = .maskFormula → ∀ (msa msb : Bool) (fid fmask idw : Word),
    (matchBank p msa msb fid fmask idw = true ↔
      ∀ b : Fin 32, fmask.getLsbD b.val = true → idw.getLsbD b.val = fid.getLsbD b.val) ∧
    (matchBank p msa msb fid 0xFFFFFFFF idw = true ↔ idw = fid)

/-- The order of R175, the spec's inference: one step leaves the FIFO as it was, appends the frame that arrives, puts it
in the last entry's place when the FIFO is full, or takes the head away; taking the head is RX's release, whose results
are those of the frame decoded from that head, except that with a FIFO of one entry under OverwriteLast a frame that
arrived since RX read the head is lost (R66). A reset empties it. -/
def Obligations.FifoKeepsArrivalOrder : Prop :=
  ∀ s t : State, Inv s → step s = .next t →
    t.rxq = s.rxq ∨
    (∃ w, s.nextTurn = .rxArrive w ∧ s.rxq.length < s.params.rxDepth ∧ t.rxq = s.rxq ++ [w]) ∨
    (∃ w, s.nextTurn = .rxArrive w ∧ s.rxq.length = s.params.rxDepth ∧
      s.params.rxOverrun = .overwriteLast ∧ t.rxq = s.rxq.dropLast ++ [w]) ∨
    (∃ r e f, s.seq = .run r ∧ s.current = some .rx ∧ r.upc = 2 ∧ s.rxq = e :: t.rxq ∧ t.seq = .idle ∧
      rspSt t.rsp = Status.ok.code ∧ decodeFrame r.snap.e = some f ∧ t.res = decodedResults f ∧
      (r.snap.e = e ∨ (s.params.rxDepth = 1 ∧ s.params.rxOverrun = .overwriteLast))) ∨
    (s.nextTurn = .reset ∧ t.rxq = [])

/-- The spec's inference R176: in every run from reset whose states up to now have no active bank, the FIFO is empty; and
an RX on an empty FIFO responds RETRY_LATER. Only FADD's last micro-step makes a bank active. -/
def Obligations.NoFilterNoReception : Prop :=
  (∀ (p : Params) (turns : List Event) (later : Later) (n : Nat) (t : State),
    let s := { State.reset with params := p, sched := turns, later := later }
    runSteps n s = .next t →
    (∀ (j : Nat) (u : State), j ≤ n → runSteps j s = .next u → ∀ k, (u.bank k).act = false) →
    t.rxq = []) ∧
  (∀ (s : State) (w : Word), s.seqOnly → decode w = .ok .rx → s.rxq = [] →
    ∃ t, runSteps 1 (s.issue w) = .next t ∧ Responded s t .retryLater ∧ t.res = s.res) ∧
  (∀ (s t : State) (k : Fin Config.numBanks), step s = .next t → (s.bank k).act = false → (t.bank k).act = true →
    ∃ r hasMask, s.seq = .run r ∧ decode r.cmd = .ok (.fadd hasMask) ∧ r.upc = 6)

/-- From filter to result: on a block with no active bank and an empty FIFO, an exact filter is added, words whose ID
word it equals arrive, and RX gives the decoded frame; words with another ID word leave RX at RETRY_LATER. It holds for
every `P_MATCH`, depth and overrun rule (R141, R170, R172, R174). -/
def Obligations.ExactFilterReceives : Prop :=
  ∀ (s : State) (a b : Args) (w : FrameWords) (f : LogicalFrame),
    let script := hostScript (.fadd false) a ++ [.rxArrive w] ++ hostScript .rx b
    s.seq = .idle → (∀ k, (s.bank k).act = false) → s.rxq = [] → 1 ≤ s.params.rxDepth →
    decodeFrame w = some f → s.sched = script →
    ∃ t, runSteps script.length s = .next t ∧ t.rxq = [] ∧ t.faults = s.faults ∧
      (w.idw = a.arg0 → Responded s t .ok ∧ t.res = decodedResults f) ∧
      (w.idw ≠ a.arg0 → Responded s t .retryLater ∧ t.res = s.res)

/-! ## The filter banks -/

/-- FADD (R141, R142, R143), micro-step by micro-step: the duplicate check, the scan, the four fields and activation
last, each writing its one field and nothing else; OK without a write when every bank is active. -/
def Obligations.FaddMicroSteps : Prop :=
  (∀ hasMask : Bool, encode (.fadd hasMask) &&& 0xFFFFEFFF = 0x00000005) ∧
  ∀ (s : State) (r : Run) (hasMask : Bool),
    let i : Instr := .fadd hasMask
    let fid := r.arg.arg0
    let mask : Word := if hasMask then r.arg.arg1 else 0xFFFFFFFF
    (∀ j : Fin Config.numBanks, s.atStep r 0 → (s.bank j).act = true → (s.bank j).fid = fid →
      (∀ l, l < j → ¬ ((s.bank l).act = true ∧ (s.bank l).fid = fid)) →
      ∃ t, exec i s = .next t ∧ Faulted s t r (.duplicateFilter .fadd fid j)) ∧
    (s.atStep r 0 → (∀ j, ¬ ((s.bank j).act = true ∧ (s.bank j).fid = fid)) →
      exec i s = .next { s with seq := .run { r with upc := 1, k := 0 } }) ∧
    ∀ k : Fin Config.numBanks, k.val = r.k →
      (s.atStep r 1 → (s.bank k).act = false → exec i s = .next { s with seq := .run { r with upc := 2 } }) ∧
      (s.atStep r 1 → (s.bank k).act = true → r.k < 27 →
        exec i s = .next { s with seq := .run { r with upc := 1, k := r.k + 1 } }) ∧
      (s.atStep r 1 → (s.bank k).act = true → r.k = 27 → ∃ t, exec i s = .next t ∧ Responded s t .ok ∧
        t = { s with seq := .idle, rsp := t.rsp }) ∧
      (s.atStep r 2 → ∃ t, exec i s = .next t ∧ t.bank k = { s.bank k with msa := s.params.modeselA } ∧
        OnlyBank s t k ∧ t = { s with seq := .run { r with upc := 3 }, fb := t.fb }) ∧
      (s.atStep r 3 → ∃ t, exec i s = .next t ∧ t.bank k = { s.bank k with msb := s.params.modeselB } ∧
        OnlyBank s t k ∧ t = { s with seq := .run { r with upc := 4 }, fb := t.fb }) ∧
      (s.atStep r 4 → ∃ t, exec i s = .next t ∧ t.bank k = { s.bank k with fid := fid } ∧
        OnlyBank s t k ∧ t = { s with seq := .run { r with upc := 5 }, fb := t.fb }) ∧
      (s.atStep r 5 → ∃ t, exec i s = .next t ∧ t.bank k = { s.bank k with fmask := mask } ∧
        OnlyBank s t k ∧ t = { s with seq := .run { r with upc := 6 }, fb := t.fb }) ∧
      (s.atStep r 6 → ∃ t, exec i s = .next t ∧ Responded s t .ok ∧ t.bank k = { s.bank k with act := true } ∧
        OnlyBank s t k ∧ t = { s with seq := .idle, rsp := t.rsp, fb := t.fb })

/-- A whole FADD of an identifier no active bank holds, with no other agent's turn: the lowest inactive bank `k` is
programmed and active after `7 + k` micro-steps, all else as before; with every bank active it responds OK after 29
micro-steps and writes no bank (R142). -/
def Obligations.FaddProgramsTheLowestFreeBank : Prop :=
  ∀ (s : State) (hasMask : Bool), s.seqOnly →
    let cmd := encode (.fadd hasMask)
    (∀ j, ¬ ((s.bank j).act = true ∧ (s.bank j).fid = s.arg.arg0)) →
    (∀ k : Fin Config.numBanks, (s.bank k).act = false → (∀ j, j < k → (s.bank j).act = true) →
      ∃ t, runSteps (7 + k.val) (s.issue cmd) = .next t ∧ Responded s t .ok ∧
        t.bank k = ⟨true, s.params.modeselA, s.params.modeselB, s.arg.arg0,
          if hasMask then s.arg.arg1 else 0xFFFFFFFF⟩ ∧
        OnlyBank s t k ∧ t = { s with cmd := cmd, seq := .idle, rsp := t.rsp, fb := t.fb }) ∧
    ((∀ k, (s.bank k).act = true) →
      ∃ t, runSteps 29 (s.issue cmd) = .next t ∧ Responded s t .ok ∧
        t = { s with cmd := cmd, seq := .idle, rsp := t.rsp })

/-- R226: an activation flag is set only when the bank holds the filter's four fields: no partially programmed bank is
ever active. -/
def Obligations.ActivationIsSetLast : Prop :=
  ∀ (s t : State) (k : Fin Config.numBanks), Inv s → (s.bank k).act = false → step s = .next t →
    (t.bank k).act = true →
    ∃ r hasMask, s.seq = .run r ∧ decode r.cmd = .ok (.fadd hasMask) ∧
      t.bank k = ⟨true, s.params.modeselA, s.params.modeselB, r.arg.arg0,
        if hasMask then r.arg.arg1 else 0xFFFFFFFF⟩

/-- The spec's inference R147: while a bank is active, no turn of any agent but a reset changes its selection fields, its
identifier or its mask; and in every reachable state an active bank has FADD's selection values. -/
def Obligations.ActiveBankKeepsItsFields : Prop :=
  (∀ (s t : State) (k : Fin Config.numBanks), Inv s → s.nextTurn ≠ .reset → (s.bank k).act = true →
    step s = .next t → t.bank k = { s.bank k with act := (t.bank k).act }) ∧
  ∀ t : State, Reachable t → t.selectedBanks

/-- The spec's inference R150: in every reachable state no two active banks hold the same identifier. It needs no
assumption that no fault was recorded: a FADD that would break it faults before any write (R143). -/
def Obligations.UniqueActiveIdentifiers : Prop :=
  ∀ t : State, Reachable t → t.uniqueFilters

/-- FREM (R144), micro-step by micro-step: only active banks' identifiers are compared, in ascending order; the first
equal one loses its activation flag, and nothing else changes; with none, OK without a write. -/
def Obligations.FremMicroSteps : Prop :=
  encode .frem = 0x00000006 ∧
  ∀ (s : State) (r : Run),
    (s.atStep r 0 → exec .frem s = .next { s with seq := .run { r with upc := 1, k := 0 } }) ∧
    ∀ k : Fin Config.numBanks, k.val = r.k →
      (s.atStep r 1 → (s.bank k).act = true → exec .frem s = .next { s with seq := .run { r with upc := 2 } }) ∧
      (s.atStep r 2 → (s.bank k).fid = r.arg.arg0 →
        exec .frem s = .next { s with seq := .run { r with upc := 3 } }) ∧
      ((s.atStep r 1 ∧ (s.bank k).act = false) ∨ (s.atStep r 2 ∧ (s.bank k).fid ≠ r.arg.arg0) →
        (r.k < 27 → exec .frem s = .next { s with seq := .run { r with upc := 1, k := r.k + 1 } }) ∧
        (r.k = 27 → ∃ t, exec .frem s = .next t ∧ Responded s t .ok ∧
          t = { s with seq := .idle, rsp := t.rsp })) ∧
      (s.atStep r 3 → ∃ t, exec .frem s = .next t ∧ Responded s t .ok ∧
        t.bank k = { s.bank k with act := false } ∧ OnlyBank s t k ∧
        t = { s with seq := .idle, rsp := t.rsp, fb := t.fb })

/-- A whole FREM with no other agent's turn, within the 58 micro-steps of R230: the lowest active bank with the
identifier is inactive and keeps its other fields, every other bank is as before; with none, no bank changes. -/
def Obligations.FremClearsTheLowestMatch : Prop :=
  ∀ s : State, s.seqOnly →
    let cmd := encode .frem
    let hit (k : Fin Config.numBanks) : Prop := (s.bank k).act = true ∧ (s.bank k).fid = s.arg.arg0
    (∀ k, hit k → (∀ j, j < k → ¬ hit j) →
      ∃ n t, n ≤ 58 ∧ runSteps n (s.issue cmd) = .next t ∧ Responded s t .ok ∧
        t.bank k = { s.bank k with act := false } ∧ OnlyBank s t k ∧
        t = { s with cmd := cmd, seq := .idle, rsp := t.rsp, fb := t.fb }) ∧
    ((∀ k, ¬ hit k) →
      ∃ n t, n ≤ 58 ∧ runSteps n (s.issue cmd) = .next t ∧ Responded s t .ok ∧
        t = { s with cmd := cmd, seq := .idle, rsp := t.rsp })

/-- The spec's inference R148, the source's idempotent removal: FREM issued twice leaves the state that once leaves, and
with no active bank of that identifier it changes no bank, responds OK and records no fault. The premise that no two
active banks share an identifier is R150, which every reachable state meets (UniqueActiveIdentifiers). -/
def Obligations.FremTwiceIsFremOnce : Prop :=
  ∀ (s : State) (a : Args), s.uniqueFilters → s.seq = .idle → s.sched = hostScript .frem a ++ hostScript .frem a →
    ∃ t u, runSteps (hostScript .frem a).length s = .next t ∧
      runSteps (hostScript .frem a).length t = .next u ∧ u = { t with sched := [] } ∧
      t.faults = s.faults ∧ Responded s t .ok ∧
      ((∀ k, ¬ ((s.bank k).act = true ∧ (s.bank k).fid = a.arg0)) → t.fb = s.fb)

/-- FCLR (R145): each micro-step clears one activation flag and changes nothing else of any bank; a whole FCLR with no
other agent's turn takes 28 micro-steps, leaves every bank inactive with its other fields kept, and responds OK. -/
def Obligations.FclrClearsEveryBank : Prop :=
  encode .fclr = 0x00000007 ∧
  (∀ (s : State) (r : Run) (k : Fin Config.numBanks), k.val = r.k → s.atStep r 0 →
    ∃ t, exec .fclr s = .next t ∧ t.bank k = { s.bank k with act := false } ∧ OnlyBank s t k ∧
      (r.k < 27 → t = { s with seq := .run { r with k := r.k + 1, upc := 0 }, fb := t.fb }) ∧
      (r.k = 27 → Responded s t .ok ∧ t = { s with seq := .idle, rsp := t.rsp, fb := t.fb })) ∧
  ∀ s : State, s.seqOnly →
    ∃ t, runSteps 28 (s.issue (encode .fclr)) = .next t ∧ Responded s t .ok ∧
      (∀ k, t.bank k = { s.bank k with act := false }) ∧
      t = { s with cmd := encode .fclr, seq := .idle, rsp := t.rsp, fb := t.fb }

/-- The spec's inference R227: FCLR is not atomic. A frame that arrives after `k` of its micro-steps is admitted exactly
when a bank from `k` up matches it: the banks below are cleared already, the others are as they were. -/
def Obligations.FclrIsSeenBankByBank : Prop :=
  ∀ (s : State) (k : Fin Config.numBanks) (w : FrameWords), s.seqOnly →
    ∃ t, runSteps k.val (s.issue (encode .fclr)) = .next t ∧ rspPend t.rsp = true ∧
      (t.accepts w.idw = true ↔ ∃ j : Fin Config.numBanks, k ≤ j ∧ (s.bank j).act = true ∧
        matchBank s.params (s.bank j).msa (s.bank j).msb (s.bank j).fid (s.bank j).fmask w.idw = true)

/-- FCNT (R146): each micro-step reads one activation flag and counts it when clear; a whole FCNT with no other agent's
turn takes 28 micro-steps and gives the number of inactive banks in RES0, RES1 to RES3 and every bank unchanged. -/
def Obligations.FcntCountsInactiveBanks : Prop :=
  encode .fcnt = 0x00000008 ∧
  (∀ (s : State) (r : Run) (k : Fin Config.numBanks), k.val = r.k → s.atStep r 0 →
    let c := if (s.bank k).act = true then r.snap.c else r.snap.c + 1
    (r.k < 27 → exec .fcnt s =
      .next { s with seq := .run { r with k := r.k + 1, upc := 0, snap := { r.snap with c := c } } }) ∧
    (r.k = 27 → ∃ t, exec .fcnt s = .next t ∧ Responded s t .ok ∧ t.res.res0 = BitVec.ofNat 32 c ∧
      t = { s with seq := .idle, rsp := t.rsp, res := { s.res with res0 := t.res.res0 } })) ∧
  ∀ s : State, s.seqOnly →
    ∃ t, runSteps 28 (s.issue (encode .fcnt)) = .next t ∧ Responded s t .ok ∧
      t.res.res0.toNat = ((List.finRange Config.numBanks).filter fun k => !(s.bank k).act).length ∧
      t = { s with cmd := encode .fcnt, seq := .idle, rsp := t.rsp, res := { s.res with res0 := t.res.res0 } }

/-- The spec's inference R149, the source's filter allocation: from all banks inactive, 28 filters with distinct
identifiers are added, bank `k` holding the `k`-th, and FCNT gives 0; a 29th with a new identifier responds OK, changes
no bank, and FCNT still gives 0. -/
def Obligations.TwentyEightFiltersFill : Prop :=
  ∀ (s : State) (filters : List (Bool × Args)) (m : Bool) (a b : Args),
    let add (x : Bool × Args) := hostScript (.fadd x.1) x.2
    s.seq = .idle → (∀ k, (s.bank k).act = false) → filters.length = 28 →
    (filters.map fun x => x.2.arg0).Nodup → a.arg0 ∉ filters.map (fun x => x.2.arg0) →
    s.sched = filters.flatMap add ++ hostScript .fcnt b ++ add (m, a) ++ hostScript .fcnt b →
    ∃ t u v w, runSteps (filters.flatMap add).length s = .next t ∧ Responded s t .ok ∧ t.faults = s.faults ∧
      (∀ k : Fin Config.numBanks, (t.bank k).act = true ∧
        some (t.bank k).fid = (filters[k.val]?).map fun x => x.2.arg0) ∧
      runSteps (hostScript .fcnt b).length t = .next u ∧ u.res.res0 = 0 ∧
      runSteps (add (m, a)).length u = .next v ∧ Responded u v .ok ∧ v.fb = t.fb ∧ v.faults = s.faults ∧
      runSteps (hostScript .fcnt b).length v = .next w ∧ w.res.res0 = 0

/-! ## Responses, faults, refusals, reset -/

/-- R201: RETRY_LATER has exactly two causes, the end of a TX scan whose every read was Busy and an empty FIFO at RX's
upc 0, and it changes nothing besides RSP (SEQ is Idle again). TX's scan goes on to a next mailbox only from one read
as Busy. And R211: a host that issues RX again and again on a FIFO that stays empty, or TX on mailboxes that stay Busy,
is in a run of the block that never ends, and gets RETRY_LATER every time. -/
def Obligations.RetryLaterCauses : Prop :=
  (∀ (s t : State) (i : Instr) (r : Run), s.seq = .run r → r.stopped = false → exec i s = .next t →
    (t.seq = .idle → rspSt t.rsp = Status.retryLater.code →
      t = { s with seq := .idle, rsp := t.rsp } ∧
      (((∃ ext rtr dlc, i = .tx ext rtr dlc) ∧ r.upc = 1 ∧ r.k = 2 ∧ s.txrq 2 = true) ∨
        (i = .rx ∧ r.upc = 0 ∧ s.rxq = []))) ∧
    (∀ ext rtr dlc r', i = .tx ext rtr dlc → t.seq = .run r' → r'.upc = 1 → r.upc = 1 →
      ∃ m : Fin Config.numMailboxes, m.val = r.k ∧ s.txrq m = true ∧ r'.k = r.k + 1)) ∧
  (∀ s : State, s.seq = .idle → s.sched = [] → s.later = .again [.hostWriteCmd (encode .rx), .seq] → s.rxq = [] →
    ∀ n : Nat, ∃ t, runSteps (2 * (n + 1)) s = .next t ∧ Responded s t .retryLater ∧
      t = { s with cmd := encode .rx, rsp := t.rsp }) ∧
  (∀ (s : State) (ext rtr : Bool) (dlc : Nat), s.seq = .idle → s.sched = [] →
    s.later = .again (.hostWriteCmd (encode (.tx ext rtr dlc)) :: List.replicate 4 .seq) → (∀ m, s.txrq m = true) →
    wellFormedFrame (frameOperand ext rtr dlc s.arg) = true →
    ∀ n : Nat, ∃ t, runSteps (5 * (n + 1)) s = .next t ∧ Responded s t .retryLater ∧
      t = { s with cmd := encode (.tx ext rtr dlc), rsp := t.rsp })

/-- R202: no command responds ERROR: from any state, a step keeps ST away from 2 and ECODE at 0; so in every reachable
state ST is not 2 and ECODE is 0. -/
def Obligations.NoErrorResponse : Prop :=
  (∀ s t : State, step s = .next t → rspSt s.rsp ≠ Status.error.code → rspEcode s.rsp = 0 →
    rspSt t.rsp ≠ Status.error.code ∧ rspEcode t.rsp = 0) ∧
  ∀ t : State, Reachable t → rspSt t.rsp ≠ Status.error.code ∧ rspEcode t.rsp = 0

/-- R203: a micro-step that faults adds one record, of the reason and with the data of its command, writes no register,
leaves `RSP.PEND` as it was and SEQ at the micro-step; from then on no micro-step of any command changes anything. It is
upc 0 of ENC, TX, DEC or FADD, or upc 1 of RX, so before the command's first write. -/
def Obligations.FaultStopsTheCommand : Prop :=
  ∀ (s t : State) (i : Instr) (r r' : Run), s.seq = .run r → r.stopped = false → exec i s = .next t →
    t.seq = .run r' → r'.stopped = true →
    r'.upc = r.upc ∧ r'.k = r.k ∧ r'.cmd = r.cmd ∧ r'.arg = r.arg ∧
    (∃ rec, (∀ x, x ∈ t.faults ↔ x = rec ∨ x ∈ s.faults) ∧
      t = { s with seq := .run r', faults := t.faults } ∧
      match i with
      | .enc ext rtr dlc => r.upc = 0 ∧ wellFormedFrame (frameOperand ext rtr dlc r.arg) = false ∧
          rec = .preconditionViolated .enc r.cmd r.arg.arg0 r.arg.arg1 r.arg.arg2
      | .tx ext rtr dlc => r.upc = 0 ∧ wellFormedFrame (frameOperand ext rtr dlc r.arg) = false ∧
          rec = .preconditionViolated .tx r.cmd r.arg.arg0 r.arg.arg1 r.arg.arg2
      | .dec => r.upc = 0 ∧ decodeFrame ⟨r.arg.arg0, r.arg.arg1, r.arg.arg2, r.arg.arg3⟩ = none ∧
          rec = .decodeDlcOutOfRange .dec ⟨r.arg.arg0, r.arg.arg1, r.arg.arg2, r.arg.arg3⟩
      | .rx => r.upc = 1 ∧ ∃ e q, s.rxq = e :: q ∧ decodeFrame e = none ∧ rec = .decodeDlcOutOfRange .rx e
      | .fadd _ => r.upc = 0 ∧ ∃ j, ((s.bank j).act = true ∧ (s.bank j).fid = r.arg.arg0) ∧
          (∀ l, l < j → ¬ ((s.bank l).act = true ∧ (s.bank l).fid = r.arg.arg0)) ∧
          rec = .duplicateFilter .fadd r.arg.arg0 j
      | .frem => False
      | .fclr => False
      | .fcnt => False) ∧
    ∀ j, exec j t = .next t

/-- R204: an illegal CMD word while SEQ is Idle, or any CMD word while it is not, sets REFUSED, starts no command, and
changes no other state. -/
def Obligations.RefusedWrites : Prop :=
  ∀ (s : State) (w : Word),
    (s.seq = .idle → (∀ i, decode w ≠ .ok i) → runEvent (.hostWriteCmd w) s = .next { s with refused := true }) ∧
    (∀ r, s.seq = .run r → runEvent (.hostWriteCmd w) s = .next { s with refused := true })

/-- R205: the outcome taken when several apply. An illegal word is refused and no command runs; an ENC or TX whose frame
is not well formed faults, whatever the mailboxes; a FADD of an identifier held faults, even with every bank active; a
TX that finds every mailbox Busy, or an RX on an empty FIFO, responds RETRY_LATER and never faults; a DEC faults on a DLC
above 8 at its first micro-step, an RX at its second. -/
def Obligations.OutcomePrecedence : Prop :=
  ∀ (s : State), s.seq = .idle → s.seqOnly →
    (∀ w, (∀ i, decode w ≠ .ok i) → s.hostWriteCmd w = { s with refused := true }) ∧
    (∀ (ext rtr : Bool) (dlc : Nat), dlc ≤ 15 → wellFormedFrame (frameOperand ext rtr dlc s.arg) = false →
      ∃ t r, runSteps 1 (s.hostWriteCmd (encode (.tx ext rtr dlc))) = .next t ∧ t.seq = .run r ∧
        r.stopped = true ∧ t.txmb = s.txmb ∧
        .preconditionViolated .tx (encode (.tx ext rtr dlc)) s.arg.arg0 s.arg.arg1 s.arg.arg2 ∈ t.faults) ∧
    (∀ (ext rtr : Bool) (dlc : Nat), dlc ≤ 15 → wellFormedFrame (frameOperand ext rtr dlc s.arg) = false →
      ∃ t r, runSteps 1 (s.hostWriteCmd (encode (.enc ext rtr dlc))) = .next t ∧ t.seq = .run r ∧
        r.stopped = true ∧ t.res = s.res ∧
        .preconditionViolated .enc (encode (.enc ext rtr dlc)) s.arg.arg0 s.arg.arg1 s.arg.arg2 ∈ t.faults) ∧
    (∀ (ext rtr : Bool) (dlc : Nat), dlc ≤ 15 → wellFormedFrame (frameOperand ext rtr dlc s.arg) = true →
      (∀ m, s.txrq m = true) →
      ∃ t, runSteps 4 (s.hostWriteCmd (encode (.tx ext rtr dlc))) = .next t ∧ Responded s t .retryLater ∧
        t.faults = s.faults) ∧
    (decodeFrame ⟨s.arg.arg0, s.arg.arg1, s.arg.arg2, s.arg.arg3⟩ = none →
      ∃ t r, runSteps 1 (s.hostWriteCmd (encode .dec)) = .next t ∧ t.seq = .run r ∧ r.stopped = true ∧
        t.res = s.res ∧ .decodeDlcOutOfRange .dec ⟨s.arg.arg0, s.arg.arg1, s.arg.arg2, s.arg.arg3⟩ ∈ t.faults) ∧
    (∀ (hasMask : Bool) (k : Fin Config.numBanks), (s.bank k).act = true → (s.bank k).fid = s.arg.arg0 →
      ∃ t r j, runSteps 1 (s.hostWriteCmd (encode (.fadd hasMask))) = .next t ∧ t.seq = .run r ∧
        r.stopped = true ∧ t.fb = s.fb ∧ j ≤ k ∧ .duplicateFilter .fadd s.arg.arg0 j ∈ t.faults) ∧
    (s.rxq = [] → ∃ t, runSteps 1 (s.hostWriteCmd (encode .rx)) = .next t ∧ Responded s t .retryLater ∧
      t.faults = s.faults) ∧
    (∀ e q, s.rxq = e :: q → decodeFrame e = none →
      ∃ t r, runSteps 2 (s.hostWriteCmd (encode .rx)) = .next t ∧ t.seq = .run r ∧ r.stopped = true ∧
        t.rxq = s.rxq ∧ .decodeDlcOutOfRange .rx e ∈ t.faults)

/-- R220 and R207: a reset, at any moment, leaves SEQ Idle, every mailbox Free, every bank inactive, RXQ empty and RSP 0,
and keeps FAULTS, REFUSED and BUSLOG; a model run starts in such a state with these three empty or false. The values
the spec calls unspecified are not stated here (log 1). -/
def Obligations.ResetValues : Prop :=
  (∀ s : State, ∃ t, runEvent .reset s = .next t ∧
    t.seq = .idle ∧ (∀ m, t.txrq m = false ∧ t.tme m = true) ∧ (∀ k, (t.bank k).act = false) ∧
    t.rxq = [] ∧ t.rxLevel = 0 ∧ t.rsp = 0 ∧
    t.faults = s.faults ∧ t.refused = s.refused ∧ t.buslog = s.buslog ∧ t.params = s.params) ∧
  State.reset.seq = .idle ∧ (∀ m, State.reset.txrq m = false) ∧ (∀ k, (State.reset.bank k).act = false) ∧
  State.reset.rxq = [] ∧ State.reset.rsp = 0 ∧ State.reset.faults = [] ∧ State.reset.refused = false ∧
  State.reset.buslog = []

/-- R34 and R35: FAULTS, REFUSED and BUSLOG start empty or false; no step removes a record from FAULTS or clears REFUSED;
BUSLOG grows by one entry at each completion of a Busy mailbox and at no other step. A reset is a step too. -/
def Obligations.RecordsOnlyGrow : Prop :=
  (State.reset.faults = [] ∧ State.reset.refused = false ∧ State.reset.buslog = []) ∧
  ∀ s t : State, step s = .next t →
    (∀ x ∈ s.faults, x ∈ t.faults) ∧ (s.refused = true → t.refused = true) ∧
    (t.buslog = s.buslog ∨ ∃ m, s.nextTurn = .txDone m ∧ s.txrq m = true ∧
      t.buslog = s.buslog ++ [(s.mailbox m).frameWords]) ∧
    (∀ m, s.nextTurn = .txDone m → s.txrq m = true → t.buslog.length = s.buslog.length + 1)

/-- The issue step of R77: a legal word written while SEQ is Idle is in CMD, PEND is 1 and RSP's other fields are kept,
SEQ is at the command's first micro-step with an empty scratch record, and CMD and the arguments are latched; nothing
else changes. A later write of an argument register does not reach the latched copy (log 11). -/
def Obligations.IssueLatchesTheCommand : Prop :=
  (∀ (s : State) (w : Word) (i : Instr), s.seq = .idle → decode w = .ok i →
    ∃ t, runEvent (.hostWriteCmd w) s = .next t ∧
      t.seq = .run { cmd := w, arg := s.arg, upc := 0, k := 0, snap := {}, stopped := false } ∧
      t.seqOp = some i.op ∧ rspPend t.rsp = true ∧ rspSt t.rsp = rspSt s.rsp ∧
      rspEcode t.rsp = rspEcode s.rsp ∧ rspReserved t.rsp = rspReserved s.rsp ∧
      t = { s with cmd := w, rsp := t.rsp, seq := t.seq }) ∧
  ∀ (s : State) (j : Fin 4) (v : Word), ∃ t, runEvent (.hostWriteArg j v) s = .next t ∧
    t.arg.get j = v ∧ (∀ l, l ≠ j → t.arg.get l = s.arg.get l) ∧ t = { s with arg := t.arg }

/-- R78: an argument register a command does not use is never read: replacing its latched copy changes nothing of what
the command's micro-steps do but that copy itself. -/
def Obligations.UnusedArgumentsAreNeverRead : Prop :=
  ∀ (s t : State) (i : Instr) (r : Run) (a : Args), s.seq = .run r → exec i s = .next t →
    (match i with
      | .enc _ _ _ => a = { r.arg with arg3 := a.arg3 }
      | .tx _ _ _ => a = { r.arg with arg3 := a.arg3 }
      | .dec => a = r.arg
      | .fadd hasMask => a.arg0 = r.arg.arg0 ∧ (hasMask = true → a.arg1 = r.arg.arg1)
      | .frem => a.arg0 = r.arg.arg0
      | .rx => True
      | .fclr => True
      | .fcnt => True) →
    exec i { s with seq := .run { r with arg := a } } = .next { t with seq :=
      match t.seq with
      | .idle => .idle
      | .run r' => .run { r' with arg := a } }

/-- R52: a write of one field leaves the register's others: DLC and TDTR_X, TXRQ and IDW. So no turn of any agent but a
reset ever changes TDTR_X (R24). -/
def Obligations.FieldWritesLeaveOtherFields : Prop :=
  (∀ (b : Mailbox) (v : BitVec 4), (b.withDlc v).dlc = v ∧ (b.withDlc v).tdtrX = b.tdtrX ∧
    b.withDlc v = { b with tdtr := (b.withDlc v).tdtr }) ∧
  (∀ (b : Mailbox) (v : Bool), (b.withTxrq v).txrq = v ∧ (b.withTxrq v).idwField = b.idwField ∧
    b.withTxrq v = { b with tir := (b.withTxrq v).tir }) ∧
  ∀ (s t : State) (m : Fin Config.numMailboxes), s.nextTurn ≠ .reset → step s = .next t →
    (t.mailbox m).tdtrX = (s.mailbox m).tdtrX

/-- R27, R31 and R56: TME is NOT TXRQ, 1 after reset, and a write to it has no effect; RXLEVEL is the FIFO's length;
RELEASE reads 0, a written 1 removes the head of a FIFO that has one, a written 0 does nothing; a host read returns the
register and changes nothing of the block, so it can be repeated. That the host can write TME, and that what it reads is
kept in a list of the model's own, is log 13. -/
def Obligations.StatusBitsAndReads : Prop :=
  (∀ m, State.reset.tme m = true) ∧
  ∀ s : State,
    (∀ m, s.tme m = !s.txrq m) ∧ (∀ m v, runEvent (.hostWriteTme m v) s = .next s) ∧
    s.rxLevel = s.rxq.length ∧ s.readReg .release = 0 ∧
    (∀ e q, s.rxq = e :: q → s.writeRelease true = { s with rxq := q }) ∧
    (s.rxq = [] → s.writeRelease true = s) ∧ s.writeRelease false = s ∧
    s.readReg .rsp = s.rsp ∧ s.readReg (.res 0) = s.res.res0 ∧ s.readReg (.res 1) = s.res.res1 ∧
    s.readReg (.res 2) = s.res.res2 ∧ s.readReg (.res 3) = s.res.res3 ∧
    ∀ reg, runEvent (.hostRead reg) s = .next { s with seen := s.seen ++ [s.readReg reg] } ∧
      { s with seen := s.seen ++ [s.readReg reg] }.readReg reg = s.readReg reg

/-! ## The whole machine -/

/-- The frame of every micro-step of every command: no command changes the parameters, CMD, ARG0 to ARG3, REFUSED,
BUSLOG or the host's reads; only TX changes a mailbox, only FADD, FREM and FCLR a bank, and the last two only its
activation flag, only RX the FIFO, only ENC, DEC, RX and FCNT a result register, and FCNT only RES0; RSP changes only
with a response; FREM, FCLR and FCNT record no fault. -/
def Obligations.CommandFrame : Prop :=
  ∀ (s t : State) (i : Instr), exec i s = .next t →
    t.params = s.params ∧ t.cmd = s.cmd ∧ t.arg = s.arg ∧ t.refused = s.refused ∧ t.buslog = s.buslog ∧
    t.seen = s.seen ∧ t.sched = s.sched ∧ t.later = s.later ∧
    (i.op ≠ .tx → t.txmb = s.txmb) ∧
    (i.op ≠ .fadd → i.op ≠ .frem → i.op ≠ .fclr → t.fb = s.fb) ∧
    (i.op = .frem ∨ i.op = .fclr → ∀ k, t.bank k = { s.bank k with act := (t.bank k).act }) ∧
    (i.op ≠ .rx → t.rxq = s.rxq) ∧
    (i.op ≠ .enc → i.op ≠ .dec → i.op ≠ .rx → i.op ≠ .fcnt → t.res = s.res) ∧
    (i.op = .fcnt → t.res = { s.res with res0 := t.res.res0 }) ∧
    (i.op = .frem ∨ i.op = .fclr ∨ i.op = .fcnt → t.faults = s.faults) ∧
    (t.seq ≠ .idle → t.rsp = s.rsp ∧ t.res = s.res)

/-- A step is the turn that comes next, and SEQ's turn runs one micro-step of the command that the latched CMD word
decodes to. While SEQ is Idle it has no micro-step to take, and its turn changes nothing (log 3). The turn is the first
one planned (log 2); where none is planned, the first of those to be planned again, SEQ's where there are none, or the
free choice (log 29). A word of the opcode table loaded with `withFetchWord` is the very next to run (log 17). -/
def Obligations.StepRunsTheDecodedCommand : Prop :=
  (∀ (s : State) (r : Run) (i : Instr), s.seq = .run r → decode r.cmd = .ok i → s.nextTurn = .seq →
    step s = exec i s.takeTurn) ∧
  (∀ s : State, s.seq = .idle → s.nextTurn = .seq → step s = .next s.takeTurn) ∧
  (∀ s : State, step s = runEvent s.nextTurn s.takeTurn) ∧
  (∀ (s : State) (e : Event) (rest : List Event), s.sched = e :: rest →
    s.nextTurn = e ∧ s.takeTurn = { s with sched := rest }) ∧
  (∀ s : State, s.seqOnly → s.nextTurn = .seq ∧ s.takeTurn = s) ∧
  (∀ (s : State) (e : Event) (rest : List Event), s.sched = [] → s.later = .again (e :: rest) →
    s.nextTurn = e ∧ s.takeTurn = { s with sched := rest }) ∧
  (∀ (s : State) (n : Nat), s.sched = [] → s.later = .free n →
    s.nextTurn = Config.freeTurn n ∧ s.takeTurn = { s with later := .free (n + 1) }) ∧
  ∀ (s : State) (nbits w : Nat) (i : Instr), decodeTableWord nbits w = some i →
    step (s.withFetchWord nbits w) = exec i (s.issue (BitVec.ofNat 32 (w % 2 ^ nbits)))

/-- The invariant holds in the state after reset, for any parameters with a FIFO of at least one entry (R8). -/
def Obligations.InvariantAtReset : Prop :=
  Inv State.reset ∧ ∀ (p : Params) (turns : List Event) (later : Later), 1 ≤ p.rxDepth →
    Inv { State.reset with params := p, sched := turns, later := later }

/-- Every step from a state that meets the invariant answers a next state, which meets it again: no turn of any agent
ends in a stop, RSP stays a legal response with PEND true to SEQ, SEQ stays at a position of its command's program with
what it has written, the FIFO stays within its depth, the active banks stay distinct and fully programmed, and FAULTS
stays a set. -/
def Obligations.InvariantKeptByEveryStep : Prop :=
  ∀ s : State, Inv s → ∃ t, step s = .next t ∧ Inv t

/-- The spec's inference R230: a command ends, or a fault stops it, within its bound of micro-steps, whatever turns the
other agents take in between and whatever the state was at its issue; a reset is not among the turns. -/
def Obligations.EveryCommandEnds : Prop :=
  ∀ (s : State) (w : Word) (i : Instr) (turns : List Event), decode w = .ok i → .reset ∉ turns →
    maxMicroSteps i.op ≤ turns.count .seq →
    ∃ n t, n ≤ turns.length ∧ (turns.take n).count .seq ≤ maxMicroSteps i.op ∧
      runSteps n { s.issue w with sched := turns } = .next t ∧ t.ended

/-- The spec's inference R37: no step depends on a field whose value is unspecified. Two states that agree on all but
unspecified fields step to states that agree again, so the values the model gives those fields at reset (log 1) reach
no response, no result, no FIFO entry, no record and no bus frame. -/
def Obligations.UnspecifiedFieldsAreNeverRead : Prop :=
  ∀ s t s' : State, Inv s → AgreeOnSpecified s t → step s = .next s' →
    ∃ t', step t = .next t' ∧ AgreeOnSpecified s' t'
end

