-- ==== Sys2Proof/Laws/State.lean ====
section
/-!
SUPPORT. One lemma for each field and each shared update of the state, so that no proof unfolds an update.
-/

namespace Sys2Proof.Machine

variable (s : State)

section updMailbox
variable (m : Fin Config.numMailboxes) (f : Mailbox → Mailbox)
@[simp] theorem State.updMailbox_params : (s.updMailbox m f).params = s.params := rfl
@[simp] theorem State.updMailbox_seq : (s.updMailbox m f).seq = s.seq := rfl
@[simp] theorem State.updMailbox_txmb : (s.updMailbox m f).txmb = s.txmb.set m.val (f (s.mailbox m)) m.isLt := rfl
@[simp] theorem State.updMailbox_fb : (s.updMailbox m f).fb = s.fb := rfl
@[simp] theorem State.updMailbox_rxq : (s.updMailbox m f).rxq = s.rxq := rfl
@[simp] theorem State.updMailbox_cmd : (s.updMailbox m f).cmd = s.cmd := rfl
@[simp] theorem State.updMailbox_arg : (s.updMailbox m f).arg = s.arg := rfl
@[simp] theorem State.updMailbox_rsp : (s.updMailbox m f).rsp = s.rsp := rfl
@[simp] theorem State.updMailbox_res : (s.updMailbox m f).res = s.res := rfl
@[simp] theorem State.updMailbox_faults : (s.updMailbox m f).faults = s.faults := rfl
@[simp] theorem State.updMailbox_refused : (s.updMailbox m f).refused = s.refused := rfl
@[simp] theorem State.updMailbox_buslog : (s.updMailbox m f).buslog = s.buslog := rfl
@[simp] theorem State.updMailbox_seen : (s.updMailbox m f).seen = s.seen := rfl
@[simp] theorem State.updMailbox_sched : (s.updMailbox m f).sched = s.sched := rfl
@[simp] theorem State.updMailbox_later : (s.updMailbox m f).later = s.later := rfl
end updMailbox

section updBank
variable (k : Fin Config.numBanks) (f : Bank → Bank)
@[simp] theorem State.updBank_params : (s.updBank k f).params = s.params := rfl
@[simp] theorem State.updBank_seq : (s.updBank k f).seq = s.seq := rfl
@[simp] theorem State.updBank_txmb : (s.updBank k f).txmb = s.txmb := rfl
@[simp] theorem State.updBank_fb : (s.updBank k f).fb = s.fb.set k.val (f (s.bank k)) k.isLt := rfl
@[simp] theorem State.updBank_rxq : (s.updBank k f).rxq = s.rxq := rfl
@[simp] theorem State.updBank_cmd : (s.updBank k f).cmd = s.cmd := rfl
@[simp] theorem State.updBank_arg : (s.updBank k f).arg = s.arg := rfl
@[simp] theorem State.updBank_rsp : (s.updBank k f).rsp = s.rsp := rfl
@[simp] theorem State.updBank_res : (s.updBank k f).res = s.res := rfl
@[simp] theorem State.updBank_faults : (s.updBank k f).faults = s.faults := rfl
@[simp] theorem State.updBank_refused : (s.updBank k f).refused = s.refused := rfl
@[simp] theorem State.updBank_buslog : (s.updBank k f).buslog = s.buslog := rfl
@[simp] theorem State.updBank_seen : (s.updBank k f).seen = s.seen := rfl
@[simp] theorem State.updBank_sched : (s.updBank k f).sched = s.sched := rfl
@[simp] theorem State.updBank_later : (s.updBank k f).later = s.later := rfl
end updBank

section writeRelease
variable (v : Bool)
@[simp] theorem State.writeRelease_params : (s.writeRelease v).params = s.params := rfl
@[simp] theorem State.writeRelease_seq : (s.writeRelease v).seq = s.seq := rfl
@[simp] theorem State.writeRelease_txmb : (s.writeRelease v).txmb = s.txmb := rfl
@[simp] theorem State.writeRelease_fb : (s.writeRelease v).fb = s.fb := rfl
@[simp] theorem State.writeRelease_rxq : (s.writeRelease v).rxq = if v then s.rxq.tail else s.rxq := rfl
@[simp] theorem State.writeRelease_cmd : (s.writeRelease v).cmd = s.cmd := rfl
@[simp] theorem State.writeRelease_arg : (s.writeRelease v).arg = s.arg := rfl
@[simp] theorem State.writeRelease_rsp : (s.writeRelease v).rsp = s.rsp := rfl
@[simp] theorem State.writeRelease_res : (s.writeRelease v).res = s.res := rfl
@[simp] theorem State.writeRelease_faults : (s.writeRelease v).faults = s.faults := rfl
@[simp] theorem State.writeRelease_refused : (s.writeRelease v).refused = s.refused := rfl
@[simp] theorem State.writeRelease_buslog : (s.writeRelease v).buslog = s.buslog := rfl
@[simp] theorem State.writeRelease_seen : (s.writeRelease v).seen = s.seen := rfl
@[simp] theorem State.writeRelease_sched : (s.writeRelease v).sched = s.sched := rfl
@[simp] theorem State.writeRelease_later : (s.writeRelease v).later = s.later := rfl
end writeRelease

section continueAt
variable (r : Run)
@[simp] theorem State.continueAt_params : (s.continueAt r).params = s.params := rfl
@[simp] theorem State.continueAt_seq : (s.continueAt r).seq = .run r := rfl
@[simp] theorem State.continueAt_txmb : (s.continueAt r).txmb = s.txmb := rfl
@[simp] theorem State.continueAt_fb : (s.continueAt r).fb = s.fb := rfl
@[simp] theorem State.continueAt_rxq : (s.continueAt r).rxq = s.rxq := rfl
@[simp] theorem State.continueAt_cmd : (s.continueAt r).cmd = s.cmd := rfl
@[simp] theorem State.continueAt_arg : (s.continueAt r).arg = s.arg := rfl
@[simp] theorem State.continueAt_rsp : (s.continueAt r).rsp = s.rsp := rfl
@[simp] theorem State.continueAt_res : (s.continueAt r).res = s.res := rfl
@[simp] theorem State.continueAt_faults : (s.continueAt r).faults = s.faults := rfl
@[simp] theorem State.continueAt_refused : (s.continueAt r).refused = s.refused := rfl
@[simp] theorem State.continueAt_buslog : (s.continueAt r).buslog = s.buslog := rfl
@[simp] theorem State.continueAt_seen : (s.continueAt r).seen = s.seen := rfl
@[simp] theorem State.continueAt_sched : (s.continueAt r).sched = s.sched := rfl
@[simp] theorem State.continueAt_later : (s.continueAt r).later = s.later := rfl
end continueAt

section respond
variable (st : Status)
@[simp] theorem State.respond_params : (s.respond st).params = s.params := rfl
@[simp] theorem State.respond_seq : (s.respond st).seq = .idle := rfl
@[simp] theorem State.respond_txmb : (s.respond st).txmb = s.txmb := rfl
@[simp] theorem State.respond_fb : (s.respond st).fb = s.fb := rfl
@[simp] theorem State.respond_rxq : (s.respond st).rxq = s.rxq := rfl
@[simp] theorem State.respond_cmd : (s.respond st).cmd = s.cmd := rfl
@[simp] theorem State.respond_arg : (s.respond st).arg = s.arg := rfl
@[simp] theorem State.respond_rsp : (s.respond st).rsp = rspRespond s.rsp st := rfl
@[simp] theorem State.respond_res : (s.respond st).res = s.res := rfl
@[simp] theorem State.respond_faults : (s.respond st).faults = s.faults := rfl
@[simp] theorem State.respond_refused : (s.respond st).refused = s.refused := rfl
@[simp] theorem State.respond_buslog : (s.respond st).buslog = s.buslog := rfl
@[simp] theorem State.respond_seen : (s.respond st).seen = s.seen := rfl
@[simp] theorem State.respond_sched : (s.respond st).sched = s.sched := rfl
@[simp] theorem State.respond_later : (s.respond st).later = s.later := rfl
end respond

section respondResults
variable (res : Results)
@[simp] theorem State.respondResults_params : (s.respondResults res).params = s.params := rfl
@[simp] theorem State.respondResults_seq : (s.respondResults res).seq = .idle := rfl
@[simp] theorem State.respondResults_txmb : (s.respondResults res).txmb = s.txmb := rfl
@[simp] theorem State.respondResults_fb : (s.respondResults res).fb = s.fb := rfl
@[simp] theorem State.respondResults_rxq : (s.respondResults res).rxq = s.rxq := rfl
@[simp] theorem State.respondResults_cmd : (s.respondResults res).cmd = s.cmd := rfl
@[simp] theorem State.respondResults_arg : (s.respondResults res).arg = s.arg := rfl
@[simp] theorem State.respondResults_rsp : (s.respondResults res).rsp = rspRespond s.rsp .ok := rfl
@[simp] theorem State.respondResults_res : (s.respondResults res).res = res := rfl
@[simp] theorem State.respondResults_faults : (s.respondResults res).faults = s.faults := rfl
@[simp] theorem State.respondResults_refused : (s.respondResults res).refused = s.refused := rfl
@[simp] theorem State.respondResults_buslog : (s.respondResults res).buslog = s.buslog := rfl
@[simp] theorem State.respondResults_seen : (s.respondResults res).seen = s.seen := rfl
@[simp] theorem State.respondResults_sched : (s.respondResults res).sched = s.sched := rfl
@[simp] theorem State.respondResults_later : (s.respondResults res).later = s.later := rfl
end respondResults

section raiseFault
variable (r : Run) (rec : FaultRecord)
@[simp] theorem State.raiseFault_params : (s.raiseFault r rec).params = s.params := rfl
@[simp] theorem State.raiseFault_seq : (s.raiseFault r rec).seq = .run { r with stopped := true } := rfl
@[simp] theorem State.raiseFault_txmb : (s.raiseFault r rec).txmb = s.txmb := rfl
@[simp] theorem State.raiseFault_fb : (s.raiseFault r rec).fb = s.fb := rfl
@[simp] theorem State.raiseFault_rxq : (s.raiseFault r rec).rxq = s.rxq := rfl
@[simp] theorem State.raiseFault_cmd : (s.raiseFault r rec).cmd = s.cmd := rfl
@[simp] theorem State.raiseFault_arg : (s.raiseFault r rec).arg = s.arg := rfl
@[simp] theorem State.raiseFault_rsp : (s.raiseFault r rec).rsp = s.rsp := rfl
@[simp] theorem State.raiseFault_res : (s.raiseFault r rec).res = s.res := rfl
@[simp] theorem State.raiseFault_faults : (s.raiseFault r rec).faults = insertFault rec s.faults := rfl
@[simp] theorem State.raiseFault_refused : (s.raiseFault r rec).refused = s.refused := rfl
@[simp] theorem State.raiseFault_buslog : (s.raiseFault r rec).buslog = s.buslog := rfl
@[simp] theorem State.raiseFault_seen : (s.raiseFault r rec).seen = s.seen := rfl
@[simp] theorem State.raiseFault_sched : (s.raiseFault r rec).sched = s.sched := rfl
@[simp] theorem State.raiseFault_later : (s.raiseFault r rec).later = s.later := rfl
end raiseFault

section refuse
@[simp] theorem State.refuse_params : (s.refuse).params = s.params := rfl
@[simp] theorem State.refuse_seq : (s.refuse).seq = s.seq := rfl
@[simp] theorem State.refuse_txmb : (s.refuse).txmb = s.txmb := rfl
@[simp] theorem State.refuse_fb : (s.refuse).fb = s.fb := rfl
@[simp] theorem State.refuse_rxq : (s.refuse).rxq = s.rxq := rfl
@[simp] theorem State.refuse_cmd : (s.refuse).cmd = s.cmd := rfl
@[simp] theorem State.refuse_arg : (s.refuse).arg = s.arg := rfl
@[simp] theorem State.refuse_rsp : (s.refuse).rsp = s.rsp := rfl
@[simp] theorem State.refuse_res : (s.refuse).res = s.res := rfl
@[simp] theorem State.refuse_faults : (s.refuse).faults = s.faults := rfl
@[simp] theorem State.refuse_refused : (s.refuse).refused = true := rfl
@[simp] theorem State.refuse_buslog : (s.refuse).buslog = s.buslog := rfl
@[simp] theorem State.refuse_seen : (s.refuse).seen = s.seen := rfl
@[simp] theorem State.refuse_sched : (s.refuse).sched = s.sched := rfl
@[simp] theorem State.refuse_later : (s.refuse).later = s.later := rfl
end refuse

section issue
variable (w : Word)
@[simp] theorem State.issue_params : (s.issue w).params = s.params := rfl
@[simp] theorem State.issue_seq : (s.issue w).seq = .run { cmd := w, arg := s.arg } := rfl
@[simp] theorem State.issue_txmb : (s.issue w).txmb = s.txmb := rfl
@[simp] theorem State.issue_fb : (s.issue w).fb = s.fb := rfl
@[simp] theorem State.issue_rxq : (s.issue w).rxq = s.rxq := rfl
@[simp] theorem State.issue_cmd : (s.issue w).cmd = w := rfl
@[simp] theorem State.issue_arg : (s.issue w).arg = s.arg := rfl
@[simp] theorem State.issue_rsp : (s.issue w).rsp = rspIssue s.rsp := rfl
@[simp] theorem State.issue_res : (s.issue w).res = s.res := rfl
@[simp] theorem State.issue_faults : (s.issue w).faults = s.faults := rfl
@[simp] theorem State.issue_refused : (s.issue w).refused = s.refused := rfl
@[simp] theorem State.issue_buslog : (s.issue w).buslog = s.buslog := rfl
@[simp] theorem State.issue_seen : (s.issue w).seen = s.seen := rfl
@[simp] theorem State.issue_sched : (s.issue w).sched = s.sched := rfl
@[simp] theorem State.issue_later : (s.issue w).later = s.later := rfl
end issue

@[simp] theorem State.writeTir_eq (m : Fin Config.numMailboxes) (v : Word) :
    s.writeTir m v = s.updMailbox m fun b => { b with tir := v } := rfl

@[simp] theorem State.writeDlc_eq (m : Fin Config.numMailboxes) (v : BitVec 4) :
    s.writeDlc m v = s.updMailbox m fun b => b.withDlc v := rfl

@[simp] theorem State.writeTdlr_eq (m : Fin Config.numMailboxes) (v : Word) :
    s.writeTdlr m v = s.updMailbox m fun b => { b with tdlr := v } := rfl

@[simp] theorem State.writeTdhr_eq (m : Fin Config.numMailboxes) (v : Word) :
    s.writeTdhr m v = s.updMailbox m fun b => { b with tdhr := v } := rfl

@[simp] theorem State.writeTxrq_eq (m : Fin Config.numMailboxes) (v : Bool) :
    s.writeTxrq m v = s.updMailbox m fun b => b.withTxrq v := rfl

@[simp] theorem State.writeMsa_eq (k : Fin Config.numBanks) (v : Bool) :
    s.writeMsa k v = s.updBank k fun b => { b with msa := v } := rfl

@[simp] theorem State.writeMsb_eq (k : Fin Config.numBanks) (v : Bool) :
    s.writeMsb k v = s.updBank k fun b => { b with msb := v } := rfl

@[simp] theorem State.writeFid_eq (k : Fin Config.numBanks) (v : Word) :
    s.writeFid k v = s.updBank k fun b => { b with fid := v } := rfl

@[simp] theorem State.writeFmask_eq (k : Fin Config.numBanks) (v : Word) :
    s.writeFmask k v = s.updBank k fun b => { b with fmask := v } := rfl

@[simp] theorem State.writeAct_eq (k : Fin Config.numBanks) (v : Bool) :
    s.writeAct k v = s.updBank k fun b => { b with act := v } := rfl

/-- A mailbox reads back what was written to it, every other mailbox reads as before. -/
theorem State.mailbox_updMailbox (m j : Fin Config.numMailboxes) (f : Mailbox → Mailbox) :
    (s.updMailbox m f).mailbox j = if m = j then f (s.mailbox m) else s.mailbox j := by
  simp only [State.mailbox, State.updMailbox, Fin.getElem_fin, Vector.getElem_set, Fin.ext_iff]

@[simp] theorem State.mailbox_updMailbox_self (m : Fin Config.numMailboxes) (f : Mailbox → Mailbox) :
    (s.updMailbox m f).mailbox m = f (s.mailbox m) := by
  simp [State.mailbox_updMailbox]

/-- A bank reads back what was written to it, every other bank reads as before. -/
theorem State.bank_updBank (k j : Fin Config.numBanks) (f : Bank → Bank) :
    (s.updBank k f).bank j = if k = j then f (s.bank k) else s.bank j := by
  simp only [State.bank, State.updBank, Fin.getElem_fin, Vector.getElem_set, Fin.ext_iff]

@[simp] theorem State.bank_updBank_self (k : Fin Config.numBanks) (f : Bank → Bank) :
    (s.updBank k f).bank k = f (s.bank k) := by
  simp [State.bank_updBank]

/-- Banks are read from the bank file alone. -/
theorem State.bank_congr (s t : State) (h : t.fb = s.fb) (k : Fin Config.numBanks) : t.bank k = s.bank k := by
  simp [State.bank, h]

/-- Mailboxes are read from the mailbox file alone. -/
theorem State.mailbox_congr (s t : State) (h : t.txmb = s.txmb) (m : Fin Config.numMailboxes) :
    t.mailbox m = s.mailbox m := by
  simp [State.mailbox, h]

/-- Two mailbox files that read alike are equal. -/
theorem State.txmb_ext (s t : State) (h : ∀ m, t.mailbox m = s.mailbox m) : t.txmb = s.txmb := by
  apply Vector.ext
  intro i hi
  exact h ⟨i, hi⟩

/-- Two bank files that read alike are equal. -/
theorem State.fb_ext (s t : State) (h : ∀ k, t.bank k = s.bank k) : t.fb = s.fb := by
  apply Vector.ext
  intro i hi
  exact h ⟨i, hi⟩

@[simp] theorem State.updMailbox_bank (m : Fin Config.numMailboxes) (f : Mailbox → Mailbox) (j : Fin Config.numBanks) :
    (s.updMailbox m f).bank j = s.bank j := rfl

@[simp] theorem State.updBank_mailbox (k : Fin Config.numBanks) (f : Bank → Bank) (j : Fin Config.numMailboxes) :
    (s.updBank k f).mailbox j = s.mailbox j := rfl

@[simp] theorem State.updBank_txrq (k : Fin Config.numBanks) (f : Bank → Bank) (j : Fin Config.numMailboxes) :
    (s.updBank k f).txrq j = s.txrq j := rfl

@[simp] theorem State.writeRelease_mailbox (v : Bool) (j : Fin Config.numMailboxes) :
    (s.writeRelease v).mailbox j = s.mailbox j := rfl

@[simp] theorem State.writeRelease_txrq (v : Bool) (j : Fin Config.numMailboxes) :
    (s.writeRelease v).txrq j = s.txrq j := rfl

@[simp] theorem State.writeRelease_bank (v : Bool) (j : Fin Config.numBanks) :
    (s.writeRelease v).bank j = s.bank j := rfl

@[simp] theorem State.continueAt_mailbox (r : Run) (j : Fin Config.numMailboxes) :
    (s.continueAt r).mailbox j = s.mailbox j := rfl

@[simp] theorem State.continueAt_txrq (r : Run) (j : Fin Config.numMailboxes) :
    (s.continueAt r).txrq j = s.txrq j := rfl

@[simp] theorem State.continueAt_bank (r : Run) (j : Fin Config.numBanks) :
    (s.continueAt r).bank j = s.bank j := rfl

@[simp] theorem State.respond_mailbox (st : Status) (j : Fin Config.numMailboxes) :
    (s.respond st).mailbox j = s.mailbox j := rfl

@[simp] theorem State.respond_txrq (st : Status) (j : Fin Config.numMailboxes) :
    (s.respond st).txrq j = s.txrq j := rfl

@[simp] theorem State.respond_bank (st : Status) (j : Fin Config.numBanks) :
    (s.respond st).bank j = s.bank j := rfl

@[simp] theorem State.respondResults_mailbox (res : Results) (j : Fin Config.numMailboxes) :
    (s.respondResults res).mailbox j = s.mailbox j := rfl

@[simp] theorem State.respondResults_txrq (res : Results) (j : Fin Config.numMailboxes) :
    (s.respondResults res).txrq j = s.txrq j := rfl

@[simp] theorem State.respondResults_bank (res : Results) (j : Fin Config.numBanks) :
    (s.respondResults res).bank j = s.bank j := rfl

@[simp] theorem State.raiseFault_mailbox (r : Run) (rec : FaultRecord) (j : Fin Config.numMailboxes) :
    (s.raiseFault r rec).mailbox j = s.mailbox j := rfl

@[simp] theorem State.raiseFault_txrq (r : Run) (rec : FaultRecord) (j : Fin Config.numMailboxes) :
    (s.raiseFault r rec).txrq j = s.txrq j := rfl

@[simp] theorem State.raiseFault_bank (r : Run) (rec : FaultRecord) (j : Fin Config.numBanks) :
    (s.raiseFault r rec).bank j = s.bank j := rfl

@[simp] theorem State.refuse_mailbox  (j : Fin Config.numMailboxes) :
    (s.refuse).mailbox j = s.mailbox j := rfl

@[simp] theorem State.refuse_txrq  (j : Fin Config.numMailboxes) :
    (s.refuse).txrq j = s.txrq j := rfl

@[simp] theorem State.refuse_bank  (j : Fin Config.numBanks) :
    (s.refuse).bank j = s.bank j := rfl

@[simp] theorem State.issue_mailbox (w : Word) (j : Fin Config.numMailboxes) :
    (s.issue w).mailbox j = s.mailbox j := rfl

@[simp] theorem State.issue_txrq (w : Word) (j : Fin Config.numMailboxes) :
    (s.issue w).txrq j = s.txrq j := rfl

@[simp] theorem State.issue_bank (w : Word) (j : Fin Config.numBanks) :
    (s.issue w).bank j = s.bank j := rfl

/-- Taking the turn changes the plan and nothing of the block. -/
theorem State.takeTurn_eq : s.takeTurn = { s with sched := s.takeTurn.sched, later := s.takeTurn.later } := by
  unfold State.takeTurn
  split
  · rfl
  · split <;> rfl

@[simp] theorem State.takeTurn_params : s.takeTurn.params = s.params := by
  rw [State.takeTurn_eq]

@[simp] theorem State.takeTurn_seq : s.takeTurn.seq = s.seq := by
  rw [State.takeTurn_eq]

@[simp] theorem State.takeTurn_txmb : s.takeTurn.txmb = s.txmb := by
  rw [State.takeTurn_eq]

@[simp] theorem State.takeTurn_fb : s.takeTurn.fb = s.fb := by
  rw [State.takeTurn_eq]

@[simp] theorem State.takeTurn_rxq : s.takeTurn.rxq = s.rxq := by
  rw [State.takeTurn_eq]

@[simp] theorem State.takeTurn_cmd : s.takeTurn.cmd = s.cmd := by
  rw [State.takeTurn_eq]

@[simp] theorem State.takeTurn_arg : s.takeTurn.arg = s.arg := by
  rw [State.takeTurn_eq]

@[simp] theorem State.takeTurn_rsp : s.takeTurn.rsp = s.rsp := by
  rw [State.takeTurn_eq]

@[simp] theorem State.takeTurn_res : s.takeTurn.res = s.res := by
  rw [State.takeTurn_eq]

@[simp] theorem State.takeTurn_faults : s.takeTurn.faults = s.faults := by
  rw [State.takeTurn_eq]

@[simp] theorem State.takeTurn_refused : s.takeTurn.refused = s.refused := by
  rw [State.takeTurn_eq]

@[simp] theorem State.takeTurn_buslog : s.takeTurn.buslog = s.buslog := by
  rw [State.takeTurn_eq]

@[simp] theorem State.takeTurn_seen : s.takeTurn.seen = s.seen := by
  rw [State.takeTurn_eq]

@[simp] theorem State.takeTurn_mailbox (m : Fin Config.numMailboxes) : s.takeTurn.mailbox m = s.mailbox m := by
  simp [State.mailbox]

@[simp] theorem State.takeTurn_txrq (m : Fin Config.numMailboxes) : s.takeTurn.txrq m = s.txrq m := by
  simp [State.txrq]

@[simp] theorem State.takeTurn_bank (k : Fin Config.numBanks) : s.takeTurn.bank k = s.bank k := by
  simp [State.bank]

@[simp] theorem State.sched_bank (l : List Event) (k : Fin Config.numBanks) :
    State.bank { s with sched := l } k = s.bank k := rfl

@[simp] theorem State.sched_mailbox (l : List Event) (m : Fin Config.numMailboxes) :
    State.mailbox { s with sched := l } m = s.mailbox m := rfl

@[simp] theorem State.sched_txrq (l : List Event) (m : Fin Config.numMailboxes) :
    State.txrq { s with sched := l } m = s.txrq m := rfl

end Sys2Proof.Machine
end

