-- ==== Sys2Proof/Laws/Flags.lean ====
section
/-!
SUPPORT. The fields of RSP, TIR and TDTR read back what was written, and a write of one field leaves the others (R52).
-/

namespace Sys2Proof.Machine

section rsp
variable (e : BitVec 16) (z : BitVec 13) (p : Bool) (t : BitVec 2)

@[simp] theorem rspSt_rspPack : rspSt (rspPack e z p t) = t := by
  apply BitVec.eq_of_getLsbD_eq
  intro i hi
  simp only [rspSt, rspPack, BitVec.getLsbD_extractLsb', BitVec.getLsbD_append]
  simp [hi]

@[simp] theorem rspPend_rspPack : rspPend (rspPack e z p t) = p := by
  simp only [rspPend, rspPack, BitVec.getLsbD_append]
  simp

@[simp] theorem rspReserved_rspPack : rspReserved (rspPack e z p t) = z := by
  apply BitVec.eq_of_getLsbD_eq
  intro i hi
  have h1 : ¬ (3 + i < 2) := by omega
  have h2 : ¬ (3 + i - 2 < 1) := by omega
  have h3 : 3 + i - 2 - 1 < 13 := by omega
  have h4 : 3 + i - 2 - 1 = i := by omega
  simp only [rspReserved, rspPack, BitVec.getLsbD_extractLsb', BitVec.getLsbD_append]
  simp [hi, h1, h2, h4]

@[simp] theorem rspEcode_rspPack : rspEcode (rspPack e z p t) = e := by
  apply BitVec.eq_of_getLsbD_eq
  intro i hi
  have h1 : ¬ (16 + i < 2) := by omega
  have h2 : ¬ (16 + i - 2 < 1) := by omega
  have h3 : ¬ (16 + i - 2 - 1 < 13) := by omega
  have h4 : 16 + i - 2 - 1 - 13 = i := by omega
  simp only [rspEcode, rspPack, BitVec.getLsbD_extractLsb', BitVec.getLsbD_append]
  simp [hi, h1, h2, h3, h4]

/-- RSP is nothing but its fields. -/
theorem rspPack_fields (w : Word) : rspPack (rspEcode w) (rspReserved w) (rspPend w) (rspSt w) = w := by
  apply BitVec.eq_of_getLsbD_eq
  intro i hi
  simp only [rspPack, BitVec.getLsbD_append, rspSt, rspReserved, rspEcode, rspPend, BitVec.getLsbD_extractLsb']
  by_cases h1 : i < 2
  · simp [h1]
  by_cases h2 : i - 2 < 1
  · have : i = 2 := by omega
    subst this
    simp
  by_cases h3 : i - 2 - 1 < 13
  · have : 3 + (i - 2 - 1) = i := by omega
    simp [h1, h2, h3, this]
  · have : 16 + (i - 2 - 1 - 13) = i := by omega
    have h4 : i - 2 - 1 - 13 < 16 := by omega
    simp [h1, h2, h3, h4, this]

end rsp

section fields
variable (w : Word) (st : Status)

@[simp] theorem rspSt_rspIssue : rspSt (rspIssue w) = rspSt w := by simp [rspIssue]
@[simp] theorem rspPend_rspIssue : rspPend (rspIssue w) = true := by simp [rspIssue]
@[simp] theorem rspReserved_rspIssue : rspReserved (rspIssue w) = rspReserved w := by simp [rspIssue]
@[simp] theorem rspEcode_rspIssue : rspEcode (rspIssue w) = rspEcode w := by simp [rspIssue]
@[simp] theorem rspSt_rspRespond : rspSt (rspRespond w st) = st.code := by simp [rspRespond]
@[simp] theorem rspPend_rspRespond : rspPend (rspRespond w st) = false := by simp [rspRespond]
@[simp] theorem rspReserved_rspRespond : rspReserved (rspRespond w st) = rspReserved w := by simp [rspRespond]
@[simp] theorem rspEcode_rspRespond :
    rspEcode (rspRespond w st) = if st = .error then rspEcode w else 0 := by
  simp [rspRespond]

end fields

section mailbox
variable (b : Mailbox)

@[simp] theorem Mailbox.txrq_withTxrq (v : Bool) : (b.withTxrq v).txrq = v := by
  simp only [Mailbox.txrq, Mailbox.withTxrq, BitVec.getLsbD_append]
  simp

@[simp] theorem Mailbox.idwField_withTxrq (v : Bool) : (b.withTxrq v).idwField = b.idwField := by
  apply BitVec.eq_of_getLsbD_eq
  intro i hi
  simp only [Mailbox.idwField, Mailbox.withTxrq, BitVec.getLsbD_extractLsb', BitVec.getLsbD_append]
  have h : 1 + i - 1 = i := by omega
  simp [hi, h]

@[simp] theorem Mailbox.tdtr_withTxrq (v : Bool) : (b.withTxrq v).tdtr = b.tdtr := rfl
@[simp] theorem Mailbox.tdlr_withTxrq (v : Bool) : (b.withTxrq v).tdlr = b.tdlr := rfl
@[simp] theorem Mailbox.tdhr_withTxrq (v : Bool) : (b.withTxrq v).tdhr = b.tdhr := rfl
@[simp] theorem Mailbox.tir_withDlc (v : BitVec 4) : (b.withDlc v).tir = b.tir := rfl
@[simp] theorem Mailbox.tdlr_withDlc (v : BitVec 4) : (b.withDlc v).tdlr = b.tdlr := rfl
@[simp] theorem Mailbox.tdhr_withDlc (v : BitVec 4) : (b.withDlc v).tdhr = b.tdhr := rfl
@[simp] theorem Mailbox.txrq_withDlc (v : BitVec 4) : (b.withDlc v).txrq = b.txrq := rfl
@[simp] theorem Mailbox.idwField_withDlc (v : BitVec 4) : (b.withDlc v).idwField = b.idwField := rfl

@[simp] theorem Mailbox.dlc_withDlc (v : BitVec 4) : (b.withDlc v).dlc = v := by
  apply BitVec.eq_of_getLsbD_eq
  intro i hi
  simp only [Mailbox.dlc, Mailbox.withDlc, BitVec.getLsbD_extractLsb', BitVec.getLsbD_append]
  simp [hi]

@[simp] theorem Mailbox.tdtrX_withDlc (v : BitVec 4) : (b.withDlc v).tdtrX = b.tdtrX := by
  apply BitVec.eq_of_getLsbD_eq
  intro i hi
  simp only [Mailbox.tdtrX, Mailbox.withDlc, BitVec.getLsbD_extractLsb', BitVec.getLsbD_append]
  have h : 4 + i - 4 = i := by omega
  simp [hi, h]

/-- TIR is its two fields (R23). -/
theorem Mailbox.tir_fields : b.idwField ++ BitVec.ofBool b.txrq = b.tir := by
  apply BitVec.eq_of_getLsbD_eq
  intro i hi
  simp only [Mailbox.idwField, Mailbox.txrq, BitVec.getLsbD_append, BitVec.getLsbD_extractLsb']
  by_cases h : i < 1
  · have : i = 0 := by omega
    subst this
    simp
  · have h1 : 1 + (i - 1) = i := by omega
    have h2 : i - 1 < 31 := by omega
    simp [h, h1, h2]

end mailbox

end Sys2Proof.Machine
end

