-- ==== Sys2Proof/Laws/Ops.lean ====
section
/-!
SUPPORT. What each shared operation can do, said once: the inversion lemmas of a micro-step, an index and a scan, and
the laws of the FAULTS set and the searches.
-/

namespace Sys2Proof.Machine

/-- With SEQ at a micro-step that has not faulted, a micro-step is its body. -/
theorem microStep_run {s : State} {r : Run} (h : s.seq = .run r) (hs : r.stopped = false) (body : Run → Out) :
    microStep s body = body r := by
  simp [microStep, h, hs]

/-- A stopped SEQ takes no further step (R203). -/
theorem microStep_stopped {s : State} {r : Run} (h : s.seq = .run r) (hs : r.stopped = true) (body : Run → Out) :
    microStep s body = .next s := by
  simp [microStep, h, hs]

/-- A micro-step that answers a next state: SEQ is stopped and nothing changes, or its body answers. -/
theorem microStep_next {s t : State} {body : Run → Out} (h : microStep s body = .next t) :
    ∃ r, s.seq = .run r ∧ ((r.stopped = true ∧ t = s) ∨ (r.stopped = false ∧ body r = .next t)) := by
  unfold microStep at h
  split at h
  · cases h
  · rename_i r hr
    refine ⟨r, hr, ?_⟩
    split at h
    · rename_i hs
      cases h
      exact .inl ⟨hs, rfl⟩
    · rename_i hs
      exact .inr ⟨by simpa using hs, h⟩

/-- An index in range is used. -/
theorem withIndex_of_lt {n k : Nat} (h : k < n) (body : Fin n → Out) : withIndex n k body = body ⟨k, h⟩ := by
  simp [withIndex, h]

/-- An index that is the value of a `Fin` is that `Fin`. -/
theorem withIndex_val {n k : Nat} (m : Fin n) (h : k = m.val) (body : Fin n → Out) :
    withIndex n k body = body m := by
  subst h
  simp [withIndex]

/-- An indexed access that answers a next state had its index in range. -/
theorem withIndex_next {n k : Nat} {t : State} {body : Fin n → Out} (h : withIndex n k body = .next t) :
    ∃ m : Fin n, m.val = k ∧ body m = .next t := by
  unfold withIndex at h
  split at h
  · rename_i hk
    exact ⟨⟨k, hk⟩, rfl, h⟩
  · cases h

/-- The end of a scan's micro-step: on to the next index, or done. -/
theorem scanOn_next {s t done : State} {r : Run} {n upc : Nat} (h : scanOn s r n upc done = .next t) :
    (r.k < n - 1 ∧ t = s.continueAt { r with k := r.k + 1, upc := upc }) ∨ (¬ r.k < n - 1 ∧ t = done) := by
  unfold scanOn at h
  split at h
  · rename_i hk
    cases h
    exact .inl ⟨hk, rfl⟩
  · rename_i hk
    cases h
    exact .inr ⟨hk, rfl⟩

theorem mem_insertFault {rec x : FaultRecord} {l : List FaultRecord} :
    x ∈ insertFault rec l ↔ x = rec ∨ x ∈ l := by
  unfold insertFault
  split
  · rename_i h
    exact ⟨.inr, fun h' => h'.elim (fun e => e ▸ h) id⟩
  · simp [or_comm]

/-- FAULTS stays a set. -/
theorem nodup_insertFault {rec : FaultRecord} {l : List FaultRecord} (h : l.Nodup) : (insertFault rec l).Nodup := by
  unfold insertFault
  split
  · exact h
  · rename_i hn
    exact List.nodup_append.2 ⟨h, by simp, fun a ha b hb => by
      have hb' : b = rec := by simpa using hb
      subst hb'
      rintro rfl
      exact hn ha⟩

/-- The lowest bank with a property has it, and no lower bank does. -/
theorem State.lowestBank_some {s : State} {p : Bank → Bool} {k : Fin Config.numBanks}
    (h : s.lowestBank p = some k) : p (s.bank k) = true ∧ ∀ j, j < k → p (s.bank j) = false := by
  unfold State.lowestBank at h
  rw [List.find?_eq_some_iff_getElem] at h
  obtain ⟨hp, i, hi, he, hlow⟩ := h
  refine ⟨hp, fun j hj => ?_⟩
  have hik : i = k.val := by simpa [Fin.ext_iff] using he
  have := hlow j.val (by rw [hik]; exact hj)
  simpa using this

/-- No bank has the property exactly when the search finds none. -/
theorem State.lowestBank_none {s : State} {p : Bank → Bool} :
    s.lowestBank p = none ↔ ∀ k, p (s.bank k) = false := by
  simp [State.lowestBank]

end Sys2Proof.Machine
end

