-- ==== Sys2Proof/Laws/Commands.lean ====
section
/-!
SUPPORT. One inversion lemma for each command: everything one of its micro-steps can do when it answers a next state.
Later proofs cite these and do not unfold a meaning.
-/

namespace Sys2Proof.Machine

variable {s t : State}

/-- What ENC can do (R106). -/
theorem execEnc_next {ext rtr : Bool} {dlc : Nat} (h : execEnc ext rtr dlc s = .next t) :
    ∃ r, s.seq = .run r ∧ ((r.stopped = true ∧ t = s) ∨ (r.stopped = false ∧ r.upc = 0 ∧
      ((wellFormedFrame (frameOperand ext rtr dlc r.arg) = true ∧
          t = s.respondResults (encodedResults (encodeFrame (frameOperand ext rtr dlc r.arg)))) ∨
        (wellFormedFrame (frameOperand ext rtr dlc r.arg) = false ∧
          t = s.raiseFault r (preconditionRecord .enc r))))) := by
  obtain ⟨r, hr, h | ⟨hs, h⟩⟩ := microStep_next h
  · exact ⟨r, hr, .inl h⟩
  refine ⟨r, hr, .inr ⟨hs, ?_⟩⟩
  split at h
  · rename_i hu
    simp only at h
    split at h <;> rename_i hw <;> cases h
    · exact ⟨hu, .inl ⟨hw, rfl⟩⟩
    · exact ⟨hu, .inr ⟨by simpa using hw, rfl⟩⟩
  · cases h

/-- What DEC can do (R107). -/
theorem execDec_next (h : execDec s = .next t) :
    ∃ r, s.seq = .run r ∧ ((r.stopped = true ∧ t = s) ∨ (r.stopped = false ∧ r.upc = 0 ∧
      ((∃ f, decodeFrame (wordsOperand r.arg) = some f ∧ t = s.respondResults (decodedResults f)) ∨
        (decodeFrame (wordsOperand r.arg) = none ∧
          t = s.raiseFault r (.decodeDlcOutOfRange .dec (wordsOperand r.arg)))))) := by
  obtain ⟨r, hr, h | ⟨hs, h⟩⟩ := microStep_next h
  · exact ⟨r, hr, .inl h⟩
  refine ⟨r, hr, .inr ⟨hs, ?_⟩⟩
  split at h
  · rename_i hu
    split at h <;> rename_i hw <;> cases h
    · exact ⟨hu, .inr ⟨hw, rfl⟩⟩
    · exact ⟨hu, .inl ⟨_, hw, rfl⟩⟩
  · cases h

/-- What TX can do (R121). -/
theorem execTx_next {ext rtr : Bool} {dlc : Nat} (h : execTx ext rtr dlc s = .next t) :
    ∃ r, s.seq = .run r ∧ ((r.stopped = true ∧ t = s) ∨ (r.stopped = false ∧
      ((r.upc = 0 ∧ wellFormedFrame (frameOperand ext rtr dlc r.arg) = true ∧ t = s.continueAt
          { r with upc := 1, k := 0, snap := { r.snap with w := encodeFrame (frameOperand ext rtr dlc r.arg) } }) ∨
        (r.upc = 0 ∧ wellFormedFrame (frameOperand ext rtr dlc r.arg) = false ∧
          t = s.raiseFault r (preconditionRecord .tx r)) ∨
        ∃ m : Fin Config.numMailboxes, m.val = r.k ∧
          ((r.upc = 1 ∧ s.txrq m = true ∧ r.k < 2 ∧ t = s.continueAt { r with k := r.k + 1, upc := 1 }) ∨
            (r.upc = 1 ∧ s.txrq m = true ∧ ¬ r.k < 2 ∧ t = s.respond .retryLater) ∨
            (r.upc = 1 ∧ s.txrq m = false ∧ t = s.continueAt { r with upc := 2 }) ∨
            (r.upc = 2 ∧ t = (s.writeTir m r.snap.w.idw).continueAt { r with upc := 3 }) ∨
            (r.upc = 3 ∧
              t = (s.writeDlc m (r.snap.w.dlw.extractLsb' 0 4)).continueAt { r with upc := 4 }) ∨
            (r.upc = 4 ∧ t = (s.writeTdlr m r.snap.w.dl).continueAt { r with upc := 5 }) ∨
            (r.upc = 5 ∧ t = (s.writeTdhr m r.snap.w.dh).continueAt { r with upc := 6 }) ∨
            (r.upc = 6 ∧ t = (s.writeTxrq m true).respond .ok))))) := by
  obtain ⟨r, hr, h | ⟨hs, h⟩⟩ := microStep_next h
  · exact ⟨r, hr, .inl h⟩
  refine ⟨r, hr, .inr ⟨hs, ?_⟩⟩
  split at h <;> rename_i hu
  · simp only at h
    split at h <;> rename_i hw <;> cases h
    · exact .inl ⟨hu, hw, rfl⟩
    · exact .inr (.inl ⟨hu, by simpa using hw, rfl⟩)
  · obtain ⟨m, hm, h⟩ := withIndex_next h
    refine .inr (.inr ⟨m, hm, ?_⟩)
    split at h <;> rename_i hq
    · obtain ⟨hk, h⟩ | ⟨hk, h⟩ := scanOn_next h
      · exact .inl ⟨hu, hq, hk, h⟩
      · exact .inr (.inl ⟨hu, hq, hk, h⟩)
    · cases h
      exact .inr (.inr (.inl ⟨hu, by simpa using hq, rfl⟩))
  · obtain ⟨m, hm, h⟩ := withIndex_next h
    cases h
    exact .inr (.inr ⟨m, hm, .inr (.inr (.inr (.inl ⟨hu, rfl⟩)))⟩)
  · obtain ⟨m, hm, h⟩ := withIndex_next h
    cases h
    exact .inr (.inr ⟨m, hm, .inr (.inr (.inr (.inr (.inl ⟨hu, rfl⟩))))⟩)
  · obtain ⟨m, hm, h⟩ := withIndex_next h
    cases h
    exact .inr (.inr ⟨m, hm, .inr (.inr (.inr (.inr (.inr (.inl ⟨hu, rfl⟩)))))⟩)
  · obtain ⟨m, hm, h⟩ := withIndex_next h
    cases h
    exact .inr (.inr ⟨m, hm, .inr (.inr (.inr (.inr (.inr (.inr (.inl ⟨hu, rfl⟩))))))⟩)
  · obtain ⟨m, hm, h⟩ := withIndex_next h
    cases h
    exact .inr (.inr ⟨m, hm, .inr (.inr (.inr (.inr (.inr (.inr (.inr ⟨hu, rfl⟩))))))⟩)
  · cases h

/-- What RX can do (R174). -/
theorem execRx_next (h : execRx s = .next t) :
    ∃ r, s.seq = .run r ∧ ((r.stopped = true ∧ t = s) ∨ (r.stopped = false ∧
      ((r.upc = 0 ∧ s.rxq = [] ∧ t = s.respond .retryLater) ∨
        (r.upc = 0 ∧ s.rxq ≠ [] ∧ t = s.continueAt { r with upc := 1 }) ∨
        (∃ e q, r.upc = 1 ∧ s.rxq = e :: q ∧ decodeFrame e = none ∧
          t = s.raiseFault { r with snap := { r.snap with e := e } } (.decodeDlcOutOfRange .rx e)) ∨
        (∃ e q f, r.upc = 1 ∧ s.rxq = e :: q ∧ decodeFrame e = some f ∧
          t = s.continueAt { r with upc := 2, snap := { r.snap with e := e, r := f } }) ∨
        (r.upc = 2 ∧ t = (s.writeRelease true).respondResults (decodedResults r.snap.r))))) := by
  obtain ⟨r, hr, h | ⟨hs, h⟩⟩ := microStep_next h
  · exact ⟨r, hr, .inl h⟩
  refine ⟨r, hr, .inr ⟨hs, ?_⟩⟩
  split at h <;> rename_i hu
  · split at h <;> rename_i hn <;> cases h
    · exact .inl ⟨hu, by simpa [State.rxLevel] using hn, rfl⟩
    · exact .inr (.inl ⟨hu, by simpa [State.rxLevel] using hn, rfl⟩)
  · split at h
    · cases h
    · rename_i e q hq
      split at h <;> rename_i hd <;> cases h
      · exact .inr (.inr (.inl ⟨e, q, hu, hq, hd, rfl⟩))
      · exact .inr (.inr (.inr (.inl ⟨e, q, _, hu, hq, hd, rfl⟩)))
  · cases h
    exact .inr (.inr (.inr (.inr ⟨hu, rfl⟩)))
  · cases h

/-- What FADD can do (R141). -/
theorem execFadd_next {hasMask : Bool} (h : execFadd hasMask s = .next t) :
    ∃ r, s.seq = .run r ∧ ((r.stopped = true ∧ t = s) ∨ (r.stopped = false ∧
      ((∃ j, r.upc = 0 ∧ s.lowestBank (Bank.holds r.arg.arg0) = some j ∧
          t = s.raiseFault r (.duplicateFilter .fadd r.arg.arg0 j)) ∨
        (r.upc = 0 ∧ s.lowestBank (Bank.holds r.arg.arg0) = none ∧
          t = s.continueAt { r with upc := 1, k := 0 }) ∨
        ∃ k : Fin Config.numBanks, k.val = r.k ∧
          ((r.upc = 1 ∧ (s.bank k).act = true ∧ r.k < 27 ∧ t = s.continueAt { r with k := r.k + 1, upc := 1 }) ∨
            (r.upc = 1 ∧ (s.bank k).act = true ∧ ¬ r.k < 27 ∧ t = s.respond .ok) ∨
            (r.upc = 1 ∧ (s.bank k).act = false ∧ t = s.continueAt { r with upc := 2 }) ∨
            (r.upc = 2 ∧ t = (s.writeMsa k s.params.modeselA).continueAt { r with upc := 3 }) ∨
            (r.upc = 3 ∧ t = (s.writeMsb k s.params.modeselB).continueAt { r with upc := 4 }) ∨
            (r.upc = 4 ∧ t = (s.writeFid k r.arg.arg0).continueAt { r with upc := 5 }) ∨
            (r.upc = 5 ∧
              t = (s.writeFmask k (filterMask (filterOperand hasMask r.arg))).continueAt { r with upc := 6 }) ∨
            (r.upc = 6 ∧ t = (s.writeAct k true).respond .ok))))) := by
  obtain ⟨r, hr, h | ⟨hs, h⟩⟩ := microStep_next h
  · exact ⟨r, hr, .inl h⟩
  refine ⟨r, hr, .inr ⟨hs, ?_⟩⟩
  simp only at h
  split at h <;> rename_i hu
  · split at h <;> rename_i hw <;> cases h
    · exact .inl ⟨_, hu, hw, rfl⟩
    · exact .inr (.inl ⟨hu, hw, rfl⟩)
  · obtain ⟨m, hm, h⟩ := withIndex_next h
    refine .inr (.inr ⟨m, hm, ?_⟩)
    split at h <;> rename_i hq
    · obtain ⟨hk, h⟩ | ⟨hk, h⟩ := scanOn_next h
      · exact .inl ⟨hu, hq, hk, h⟩
      · exact .inr (.inl ⟨hu, hq, hk, h⟩)
    · cases h
      exact .inr (.inr (.inl ⟨hu, by simpa using hq, rfl⟩))
  · obtain ⟨m, hm, h⟩ := withIndex_next h
    cases h
    exact .inr (.inr ⟨m, hm, .inr (.inr (.inr (.inl ⟨hu, rfl⟩)))⟩)
  · obtain ⟨m, hm, h⟩ := withIndex_next h
    cases h
    exact .inr (.inr ⟨m, hm, .inr (.inr (.inr (.inr (.inl ⟨hu, rfl⟩))))⟩)
  · obtain ⟨m, hm, h⟩ := withIndex_next h
    cases h
    exact .inr (.inr ⟨m, hm, .inr (.inr (.inr (.inr (.inr (.inl ⟨hu, rfl⟩)))))⟩)
  · obtain ⟨m, hm, h⟩ := withIndex_next h
    cases h
    exact .inr (.inr ⟨m, hm, .inr (.inr (.inr (.inr (.inr (.inr (.inl ⟨hu, rfl⟩))))))⟩)
  · obtain ⟨m, hm, h⟩ := withIndex_next h
    cases h
    exact .inr (.inr ⟨m, hm, .inr (.inr (.inr (.inr (.inr (.inr (.inr ⟨hu, rfl⟩))))))⟩)
  · cases h

/-- What FREM can do (R144). -/
theorem execFrem_next (h : execFrem s = .next t) :
    ∃ r, s.seq = .run r ∧ ((r.stopped = true ∧ t = s) ∨ (r.stopped = false ∧
      ((r.upc = 0 ∧ t = s.continueAt { r with upc := 1, k := 0 }) ∨
        ∃ k : Fin Config.numBanks, k.val = r.k ∧
          ((r.upc = 1 ∧ (s.bank k).act = true ∧ t = s.continueAt { r with upc := 2 }) ∨
            (r.upc = 2 ∧ (s.bank k).fid = r.arg.arg0 ∧ t = s.continueAt { r with upc := 3 }) ∨
            (((r.upc = 1 ∧ (s.bank k).act = false) ∨ (r.upc = 2 ∧ (s.bank k).fid ≠ r.arg.arg0)) ∧ r.k < 27 ∧
              t = s.continueAt { r with k := r.k + 1, upc := 1 }) ∨
            (((r.upc = 1 ∧ (s.bank k).act = false) ∨ (r.upc = 2 ∧ (s.bank k).fid ≠ r.arg.arg0)) ∧ ¬ r.k < 27 ∧
              t = s.respond .ok) ∨
            (r.upc = 3 ∧ t = (s.writeAct k false).respond .ok))))) := by
  obtain ⟨r, hr, h | ⟨hs, h⟩⟩ := microStep_next h
  · exact ⟨r, hr, .inl h⟩
  refine ⟨r, hr, .inr ⟨hs, ?_⟩⟩
  simp only at h
  split at h <;> rename_i hu
  · cases h
    exact .inl ⟨hu, rfl⟩
  · obtain ⟨m, hm, h⟩ := withIndex_next h
    refine .inr ⟨m, hm, ?_⟩
    split at h <;> rename_i hq
    · cases h
      exact .inl ⟨hu, hq, rfl⟩
    · have hq' : (s.bank m).act = false := by simpa using hq
      obtain ⟨hk, h⟩ | ⟨hk, h⟩ := scanOn_next h
      · exact .inr (.inr (.inl ⟨.inl ⟨hu, hq'⟩, hk, h⟩))
      · exact .inr (.inr (.inr (.inl ⟨.inl ⟨hu, hq'⟩, hk, h⟩)))
  · obtain ⟨m, hm, h⟩ := withIndex_next h
    refine .inr ⟨m, hm, ?_⟩
    split at h <;> rename_i hq
    · cases h
      exact .inr (.inl ⟨hu, hq, rfl⟩)
    · obtain ⟨hk, h⟩ | ⟨hk, h⟩ := scanOn_next h
      · exact .inr (.inr (.inl ⟨.inr ⟨hu, hq⟩, hk, h⟩))
      · exact .inr (.inr (.inr (.inl ⟨.inr ⟨hu, hq⟩, hk, h⟩)))
  · obtain ⟨m, hm, h⟩ := withIndex_next h
    cases h
    exact .inr ⟨m, hm, .inr (.inr (.inr (.inr ⟨hu, rfl⟩)))⟩
  · cases h

/-- What FCLR can do (R145). -/
theorem execFclr_next (h : execFclr s = .next t) :
    ∃ r, s.seq = .run r ∧ ((r.stopped = true ∧ t = s) ∨ (r.stopped = false ∧ r.upc = 0 ∧
      ∃ k : Fin Config.numBanks, k.val = r.k ∧
        ((r.k < 27 ∧ t = (s.writeAct k false).continueAt { r with k := r.k + 1, upc := 0 }) ∨
          (¬ r.k < 27 ∧ t = (s.writeAct k false).respond .ok)))) := by
  obtain ⟨r, hr, h | ⟨hs, h⟩⟩ := microStep_next h
  · exact ⟨r, hr, .inl h⟩
  refine ⟨r, hr, .inr ⟨hs, ?_⟩⟩
  split at h <;> rename_i hu
  · obtain ⟨m, hm, h⟩ := withIndex_next h
    simp only at h
    exact ⟨hu, m, hm, scanOn_next h⟩
  · cases h

/-- What FCNT can do (R146). -/
theorem execFcnt_next (h : execFcnt s = .next t) :
    ∃ r, s.seq = .run r ∧ ((r.stopped = true ∧ t = s) ∨ (r.stopped = false ∧ r.upc = 0 ∧
      ∃ k : Fin Config.numBanks, k.val = r.k ∧
        ∃ c, c = (if (s.bank k).act then r.snap.c else r.snap.c + 1) ∧
        ((r.k < 27 ∧ t = s.continueAt { r with k := r.k + 1, upc := 0, snap := { r.snap with c := c } }) ∨
          (¬ r.k < 27 ∧ t = s.respondResults { s.res with res0 := BitVec.ofNat 32 c })))) := by
  obtain ⟨r, hr, h | ⟨hs, h⟩⟩ := microStep_next h
  · exact ⟨r, hr, .inl h⟩
  refine ⟨r, hr, .inr ⟨hs, ?_⟩⟩
  split at h <;> rename_i hu
  · obtain ⟨m, hm, h⟩ := withIndex_next h
    simp only at h
    exact ⟨hu, m, hm, _, rfl, scanOn_next h⟩
  · cases h

end Sys2Proof.Machine
end

