-- ==== Sys2Proof/Laws/PerInstr.lean ====
section
/-!
SUPPORT. A statement about every command as syntax, one lemma for each constructor: a well-formed command's word has the
fixed bits of its own row of the opcode table (R82 of spec/30_encoding.md).
-/

namespace Sys2Proof.Laws.EncodedInRow

/-- The command's word matches a row of the opcode table that is its own. -/
def Statement (i : Instr) : Prop :=
  i.wellFormed = true → ∃ row ∈ opcodeTable, row.op = i.op ∧ row.matchesWord (encode i) = true

theorem enc (ext rtr : Bool) (dlc : Nat) : Statement (.enc ext rtr dlc) := by
  intro h
  refine ⟨⟨.enc, 0x00000001, 0xFFFFF0CF⟩, by simp [opcodeTable], rfl, ?_⟩
  have hd : dlc ≤ 15 := by simpa [Instr.wellFormed, maxDlcField] using h
  revert ext rtr
  interval_cases dlc <;> decide

theorem dec : Statement .dec :=
  fun _ => ⟨⟨.dec, 0x00000002, 0xFFFFFFFF⟩, by simp [opcodeTable], rfl, by decide⟩

theorem tx (ext rtr : Bool) (dlc : Nat) : Statement (.tx ext rtr dlc) := by
  intro h
  refine ⟨⟨.tx, 0x00000003, 0xFFFFF0CF⟩, by simp [opcodeTable], rfl, ?_⟩
  have hd : dlc ≤ 15 := by simpa [Instr.wellFormed, maxDlcField] using h
  revert ext rtr
  interval_cases dlc <;> decide

theorem rx : Statement .rx :=
  fun _ => ⟨⟨.rx, 0x00000004, 0xFFFFFFFF⟩, by simp [opcodeTable], rfl, by decide⟩

theorem fadd (hasMask : Bool) : Statement (.fadd hasMask) :=
  fun _ => ⟨⟨.fadd, 0x00000005, 0xFFFFEFFF⟩, by simp [opcodeTable], rfl, by cases hasMask <;> decide⟩

theorem frem : Statement .frem :=
  fun _ => ⟨⟨.frem, 0x00000006, 0xFFFFFFFF⟩, by simp [opcodeTable], rfl, by decide⟩

theorem fclr : Statement .fclr :=
  fun _ => ⟨⟨.fclr, 0x00000007, 0xFFFFFFFF⟩, by simp [opcodeTable], rfl, by decide⟩

theorem fcnt : Statement .fcnt :=
  fun _ => ⟨⟨.fcnt, 0x00000008, 0xFFFFFFFF⟩, by simp [opcodeTable], rfl, by decide⟩

end Sys2Proof.Laws.EncodedInRow
end

