-- ==== Sys2Proof/Laws/Step.lean ====
section
/-!
SUPPORT. What a step can do, said once: SEQ's turn, or one event of another agent (R60), and the laws of `runSteps`.
-/

namespace Sys2Proof.Machine

variable {s t : State}

/-- SEQ's turn while Idle. -/
theorem seqTurn_idle (h : s.seq = .idle) : seqTurn s = .next s := by
  simp [seqTurn, h]

/-- SEQ's turn while a command is in progress. -/
theorem seqTurn_run {r : Run} {i : Instr} (h : s.seq = .run r) (hd : decode r.cmd = .ok i) :
    seqTurn s = exec i s := by
  simp [seqTurn, h, hd]

/-- A turn of SEQ that answers a next state. -/
theorem seqTurn_next (h : seqTurn s = .next t) :
    (s.seq = .idle ∧ t = s) ∨ ∃ r i, s.seq = .run r ∧ decode r.cmd = .ok i ∧ exec i s = .next t := by
  unfold seqTurn at h
  split at h
  · rename_i hs
    cases h
    exact .inl ⟨hs, rfl⟩
  · rename_i r hs
    split at h
    · rename_i i hd
      exact .inr ⟨r, i, hs, hd, h⟩
    · cases h

/-- The command in progress. -/
theorem State.current_run {r : Run} {i : Instr} (h : s.seq = .run r) (hd : decode r.cmd = .ok i) :
    s.current = some i := by
  simp [State.current, h, hd]

/-- The turn that comes next when one is planned, and what is left of the plan. -/
theorem State.turn_planned {e : Event} {rest : List Event} (h : s.sched = e :: rest) :
    s.nextTurn = e ∧ s.takeTurn = { s with sched := rest } := by
  simp [State.nextTurn, State.takeTurn, h]

/-- Every turn is SEQ's while no other agent has one. -/
theorem State.turn_seqOnly (h : s.seqOnly) : s.nextTurn = .seq ∧ s.takeTurn = s := by
  simp [State.nextTurn, State.takeTurn, h.1, h.2]

/-- The turn that comes next when the plan is used up and is planned again. -/
theorem State.turn_again {e : Event} {rest : List Event} (h : s.sched = []) (hl : s.later = .again (e :: rest)) :
    s.nextTurn = e ∧ s.takeTurn = { s with sched := rest } := by
  simp [State.nextTurn, State.takeTurn, h, hl]

/-- The turn that comes next when the plan is used up and the choice is free. -/
theorem State.turn_free {n : Nat} (h : s.sched = []) (hl : s.later = .free n) :
    s.nextTurn = Config.freeTurn n ∧ s.takeTurn = { s with later := .free (n + 1) } := by
  simp [State.nextTurn, State.takeTurn, h, hl]

/-- While no other agent has a turn a step is SEQ's turn. -/
theorem step_seqOnly (h : s.seqOnly) : step s = seqTurn s := by
  simp [step, State.turn_seqOnly h, runEvent]

/-- A planned turn is taken from the plan and run. -/
theorem step_cons {e : Event} {rest : List Event} (h : s.sched = e :: rest) :
    step s = runEvent e { s with sched := rest } := by
  simp [step, State.turn_planned h]

/-- The first turn of a plan that is planned again is taken and run. -/
theorem step_again {e : Event} {rest : List Event} (h : s.sched = []) (hl : s.later = .again (e :: rest)) :
    step s = runEvent e { s with sched := rest } := by
  simp [step, State.turn_again h hl]

/-- A step that answers a next state is a turn of SEQ, or another agent's event. -/
theorem step_next (h : step s = .next t) :
    (s.nextTurn = .seq ∧ seqTurn s.takeTurn = .next t) ∨
    (s.nextTurn ≠ .seq ∧ runEvent s.nextTurn s.takeTurn = .next t) := by
  by_cases he : s.nextTurn = .seq
  · exact .inl ⟨he, by simpa [step, he, runEvent] using h⟩
  · exact .inr ⟨he, h⟩

@[simp] theorem runSteps_zero : runSteps 0 s = .next s := rfl

/-- One step first, then the rest. -/
theorem runSteps_succ {n : Nat} (h : step s = .next t) : runSteps (n + 1) s = runSteps n t := by
  simp [runSteps, h]

/-- A run of `m + n` steps is a run of `m` and then one of `n`. -/
theorem runSteps_add {m n : Nat} (h : runSteps m s = .next t) : runSteps (m + n) s = runSteps n t := by
  induction m generalizing s with
  | zero =>
    cases h
    simp
  | succ m ih =>
    rw [Nat.succ_add]
    unfold runSteps at h
    split at h
    · rename_i v hv
      rw [runSteps_succ hv]
      exact ih h
    · cases h
    · cases h

/-- A run that answers a next state after `n + 1` steps answered one after `n`. -/
theorem runSteps_last {n : Nat} (h : runSteps (n + 1) s = .next t) :
    ∃ u, runSteps n s = .next u ∧ step u = .next t := by
  induction n generalizing s with
  | zero =>
    unfold runSteps at h
    split at h
    · rename_i v hv
      cases h
      exact ⟨s, rfl, hv⟩
    · cases h
    · cases h
  | succ n ih =>
    unfold runSteps at h
    split at h
    · rename_i v hv
      obtain ⟨u, hu, hs⟩ := ih h
      exact ⟨u, by rw [runSteps_succ hv, hu], hs⟩
    · cases h
    · cases h

/-- A property that holds at the start and that every step keeps holds at the end of a run. -/
theorem runSteps_keeps {P : State → Prop} (hstep : ∀ u v, P u → step u = .next v → P v) {n : Nat} (h0 : P s)
    (h : runSteps n s = .next t) : P t := by
  induction n generalizing s with
  | zero =>
    cases h
    exact h0
  | succ n ih =>
    unfold runSteps at h
    split at h
    · rename_i v hv
      exact ih (hstep s v h0 hv) h
    · cases h
    · cases h

end Sys2Proof.Machine
end

