-- ==== Sys2Proof/Tests/Slice0.lean ====
section
/-!
SUPPORT. The model's own tests: the checks of WellFormed, words written out from the encoding (R77, R81), single steps
with the values of spec/95_test_vectors.md, and for each statement with hypotheses a state and operands that meet them.
-/

namespace Sys2Proof.Tests

open Sys2Proof Sys2Proof.Machine

/-- The answer is a next state with this property. -/
def isNext (o : Out) (p : State → Bool) : Bool :=
  match o with
  | .next t => p t
  | .fault _ => false
  | .refused _ => false

/-- The defaults of R8, with a definite overrun rule. -/
def params : Params := ⟨3, .discardNew, .maskFormula, true, false⟩

/-- The block after reset. -/
def rest : State := { State.reset with params := params }

/-- A position of the command word `cmd`. -/
def pos (cmd : Word) (arg : Args) (upc k : Nat) (snap : Snap := {}) : Run :=
  { cmd := cmd, arg := arg, upc := upc, k := k, snap := snap }

/-- The block with SEQ at the position `r` and PEND 1. -/
def atPos (r : Run) : State := { rest with seq := .run r, rsp := 4 }

/-- A Busy mailbox: the frame V1. -/
def busyMailbox : Mailbox := ⟨0x24600001, 2, 0x2211, 0⟩

/-- Every bank active, bank `k` holding the identifier `k` (F10). -/
def fullBanks : Vector Bank Config.numBanks :=
  Vector.ofFn fun k => ⟨true, true, false, BitVec.ofNat 32 k.val, 0xFFFFFFFF⟩

/-- Only bank 27 is active, with the identifier of V1. -/
def lastBankOnly : Vector Bank Config.numBanks :=
  Vector.ofFn fun k => if k.val = 27 then ⟨true, true, false, 0x24600000, 0xFFFFFFFF⟩ else {}

/-- The arguments of `TX.S 0x123, 2, [0x11, 0x22]` (P1). -/
def argsV1 : Args := ⟨0x123, 0x2211, 0, 0⟩

/-- The encoded words of V1. -/
def wordsV1 : FrameWords := ⟨0x24600000, 2, 0x2211, 0⟩

/-- The frame V5. -/
def frameV5 : LogicalFrame := ⟨0x12345678, true, false, 8, [1, 2, 3, 4, 5, 6, 7, 8]⟩

/-- The frame V1. -/
def frameV1 : LogicalFrame := ⟨0x123, false, false, 2, [0x11, 0x22]⟩

/-! ## The checks of WellFormed, and decoding -/

theorem test_wf_refuses_enc_dlc_16 : (Instr.enc false false 16).wellFormed = false := by decide

theorem test_wf_refuses_tx_dlc_16 : (Instr.tx true true 16).wellFormed = false := by decide

theorem test_wf_accepts_dlc_15 : (Instr.enc true true 15).wellFormed = true ∧ (Instr.tx true true 15).wellFormed = true := by
  decide

/-- Bits from R77: [31:13] reserved, M, D, [7:6] reserved, R, X, OPC. -/
theorem test_decode_enc_bits :
    decode ((0 : BitVec 19) ++ 0#1 ++ 0b0010#4 ++ 0#2 ++ 0#1 ++ 0#1 ++ 0b0001#4) = .ok (.enc false false 2) := by decide

theorem test_decode_dec_bits :
    decode ((0 : BitVec 19) ++ 0#1 ++ 0#4 ++ 0#2 ++ 0#1 ++ 0#1 ++ 0b0010#4) = .ok .dec := by decide

theorem test_decode_tx_bits :
    decode ((0 : BitVec 19) ++ 0#1 ++ 0b0100#4 ++ 0#2 ++ 1#1 ++ 0#1 ++ 0b0011#4) = .ok (.tx false true 4) := by decide

theorem test_decode_rx_bits :
    decode ((0 : BitVec 19) ++ 0#1 ++ 0#4 ++ 0#2 ++ 0#1 ++ 0#1 ++ 0b0100#4) = .ok .rx := by decide

theorem test_decode_fadd_bits :
    decode ((0 : BitVec 19) ++ 1#1 ++ 0#4 ++ 0#2 ++ 0#1 ++ 0#1 ++ 0b0101#4) = .ok (.fadd true) := by decide

theorem test_decode_frem_bits :
    decode ((0 : BitVec 19) ++ 0#1 ++ 0#4 ++ 0#2 ++ 0#1 ++ 0#1 ++ 0b0110#4) = .ok .frem := by decide

theorem test_decode_fclr_bits :
    decode ((0 : BitVec 19) ++ 0#1 ++ 0#4 ++ 0#2 ++ 0#1 ++ 0#1 ++ 0b0111#4) = .ok .fclr := by decide

theorem test_decode_fcnt_bits :
    decode ((0 : BitVec 19) ++ 0#1 ++ 0#4 ++ 0#2 ++ 0#1 ++ 0#1 ++ 0b1000#4) = .ok .fcnt := by decide

/-- K1 to K7, with both ends of K2. -/
theorem test_decode_rejects :
    decode 0x0 = .error .reservedOpcode ∧ decode 0x9 = .error .reservedOpcode ∧ decode 0xF = .error .reservedOpcode ∧
    decode 0x41 = .error .reservedBits ∧ decode 0x1003 = .error .unusedField ∧ decode 0x105 = .error .unusedField ∧
    decode 0x14 = .error .unusedField ∧ decode 0x2001 = .error .reservedBits := by decide

theorem test_decode_table_word : decodeTableWord 32 0x813 = some (.tx true false 8) ∧ decodeTableWord 32 0x41 = none := by
  decide

/-- A loaded word is the next to run: the issue has set PEND, the frame 0 with DLC 3 is well formed. -/
theorem test_fetch_word_runs :
    isNext (step (State.reset.withFetchWord 32 0x331)) (fun t => decide (t.seq = .idle ∧ t.res.res0 = 6 ∧ t.rsp = 0)) = true := by
  decide

/-- The table of R57: a mailbox, a FIFO and a bank register. -/
theorem test_reg_map :
    Config.regMap (.tdhr 2) = 0x1AC ∧ Config.regMap .rdh0r = 0x1BC ∧ Config.regMap (.fr2 27) = 0x31C := by decide

/-! ## The commands, one step each -/

/-- V5. -/
theorem test_enc_extended :
    isNext (exec (.enc true false 8) (atPos (pos 0x811 ⟨0x12345678, 0x04030201, 0x08070605, 0⟩ 0 0)))
      (fun t => decide (t.res = ⟨0x91A2B3C4, 8, 0x04030201, 0x08070605⟩ ∧ t.rsp = 0 ∧ t.seq = .idle)) = true := by decide

/-- E1: the identifier is 2^11. PEND stays 1. -/
theorem test_enc_fault :
    isNext (exec (.enc false false 0) (atPos (pos 0x1 ⟨0x800, 0, 0, 0⟩ 0 0)))
      (fun t => decide (t.faults = [.preconditionViolated .enc 1 0x800 0 0] ∧ t.rsp = 4 ∧ t.res = {})) = true := by decide

/-- W3: DLW[31:4] and the bytes past the DLC are ignored. -/
theorem test_dec_ignores_reserved_bits :
    isNext (exec .dec (atPos (pos 2 ⟨0x24600000, 0xABCD0103, 0x44332211, 0x88776655⟩ 0 0)))
      (fun t => decide (t.res = ⟨0x123, 0x300, 0x00332211, 0⟩ ∧ t.rsp = 0)) = true := by decide

/-- W7. -/
theorem test_dec_fault :
    isNext (exec .dec (atPos (pos 2 ⟨0, 9, 0, 0⟩ 0 0)))
      (fun t => decide (t.faults = [.decodeDlcOutOfRange .dec ⟨0, 9, 0, 0⟩] ∧ t.rsp = 4)) = true := by decide

/-- T9: TDTR_X is kept. -/
theorem test_tx_keeps_tdtr_x :
    isNext (exec (.tx false false 2)
        { atPos (pos 0x203 argsV1 3 0 { w := wordsV1 }) with txmb := #v[{ tdtr := 0xABCD0000 }, {}, {}] })
      (fun t => decide ((t.mailbox 0).tdtr = 0xABCD0002)) = true := by decide

/-- T7: the last mailbox is read as Busy. -/
theorem test_tx_retry_later :
    isNext (exec (.tx false false 2)
        { atPos (pos 0x203 argsV1 1 2 { w := wordsV1 }) with txmb := Vector.replicate 3 busyMailbox })
      (fun t => decide (t.rsp = 1 ∧ t.seq = .idle)) = true := by decide

/-- X3: the descriptor 0x330 of an extended remote frame with DLC 3, and the next entry stays. -/
theorem test_rx_result :
    isNext (exec .rx
        { atPos (pos 4 {} 2 0 { r := ⟨0x1FFFFFFF, true, true, 3, []⟩ }) with
          rxq := [⟨0xFFFFFFFE, 3, 0xDDCCBBAA, 0⟩, wordsV1] })
      (fun t => decide (t.res = ⟨0x1FFFFFFF, 0x330, 0, 0⟩ ∧ t.rxq = [wordsV1])) = true := by decide

/-- X4: the entry stays in the FIFO. -/
theorem test_rx_fault_keeps_entry :
    isNext (exec .rx { atPos (pos 4 {} 1 0) with rxq := [⟨0x24600000, 9, 0, 0⟩] })
      (fun t => decide (t.faults = [.decodeDlcOutOfRange .rx ⟨0x24600000, 9, 0, 0⟩] ∧ t.rxq.length = 1)) = true := by
  decide

/-- F4. -/
theorem test_fadd_duplicate :
    isNext (exec (.fadd false)
        { atPos (pos 5 ⟨0x00200000, 0, 0, 0⟩ 0 0) with
          fb := (Vector.replicate 28 {}).set 0 ⟨true, true, false, 0x00200000, 0xFFFFFFFF⟩ })
      (fun t => decide (t.faults = [.duplicateFilter .fadd 0x00200000 0])) = true := by decide

/-- F3: the mask given. -/
theorem test_fadd_mask :
    isNext (exec (.fadd true) (atPos (pos 0x1005 ⟨0x24600000, 0xFFE00000, 0, 0⟩ 5 0)))
      (fun t => decide ((t.bank 0).fmask = 0xFFE00000 ∧ (t.bank 0).act = false)) = true := by decide

/-- F8: an inactive bank is passed over, whatever its identifier. -/
theorem test_frem_skips_inactive :
    isNext (exec .frem
        { atPos (pos 6 ⟨0x00400000, 0, 0, 0⟩ 1 0) with
          fb := (Vector.replicate 28 {}).set 0 { fid := 0x00400000 } })
      (fun t => decide (t.seq = .run (pos 6 ⟨0x00400000, 0, 0, 0⟩ 1 1))) = true := by decide

/-- F6: the other fields stay. -/
theorem test_frem_clears_act :
    isNext (exec .frem { atPos (pos 6 ⟨0x24600000, 0, 0, 0⟩ 3 27) with fb := lastBankOnly })
      (fun t => decide (t.bank 27 = ⟨false, true, false, 0x24600000, 0xFFFFFFFF⟩ ∧ t.rsp = 0)) = true := by decide

/-- P4, step 3. -/
theorem test_fclr_first_step :
    isNext (exec .fclr { atPos (pos 7 {} 0 0) with fb := fullBanks })
      (fun t => decide ((t.bank 0).act = false ∧ (t.bank 1).act = true ∧ t.seq = .run (pos 7 {} 0 1) ∧ t.rsp = 4)) =
      true := by decide

/-- F12: the 28th flag read. -/
theorem test_fcnt_last_step :
    isNext (exec .fcnt (atPos (pos 8 {} 0 27 { c := 27 })))
      (fun t => decide (t.res.res0 = 0x1C ∧ t.rsp = 0)) = true := by decide

/-! ## The other agents, one step each -/

/-- C1. -/
theorem test_tx_done :
    isNext (runEvent (.txDone 1)
        { rest with txmb := #v[{}, ⟨0x91A2B3C5, 8, 0x04030201, 0x08070605⟩, {}] })
      (fun t => decide (t.buslog = [⟨0x91A2B3C4, 8, 0x04030201, 0x08070605⟩] ∧ (t.mailbox 1).tir = 0x91A2B3C4)) =
      true := by decide

/-- A1 to A6 and A9. -/
theorem test_acceptance :
    bankAdmits params 0x24600000 ⟨true, true, false, 0x24600000, 0xFFFFFFFF⟩ = true ∧
    bankAdmits params 0x24600002 ⟨true, true, false, 0x24600000, 0xFFFFFFFF⟩ = false ∧
    bankAdmits params 0x24600001 ⟨true, true, false, 0x24600000, 0xFFFFFFFF⟩ = false ∧
    bankAdmits params 0x24600002 ⟨true, true, false, 0x24600000, 0xFFE00000⟩ = true ∧
    bankAdmits params 0x2460FFFC ⟨true, true, false, 0x24600000, 0xFFE00000⟩ = true ∧
    bankAdmits params 0x24800000 ⟨true, true, false, 0x24600000, 0xFFE00000⟩ = false ∧
    bankAdmits params 0x24600000 ⟨false, true, false, 0x24600000, 0xFFFFFFFF⟩ = false := by decide

/-- O1 and O2. -/
theorem test_overrun (e1 e2 e3 e4 : FrameWords) :
    enqueue params [e1, e2, e3] e4 = [e1, e2, e3] ∧
    enqueue { params with rxOverrun := .overwriteLast } [e1, e2, e3] e4 = [e1, e2, e4] := ⟨rfl, rfl⟩

/-- K10: a write while SEQ is not Idle is refused, the command in progress unaffected. -/
theorem test_write_while_busy :
    isNext (runEvent (.hostWriteCmd 8) (atPos (pos 3 ⟨0x800, 0, 0, 0⟩ 0 0)))
      (fun t => decide (t.refused = true ∧ t.seq = .run (pos 3 ⟨0x800, 0, 0, 0⟩ 0 0) ∧ t.rsp = 4)) = true := by decide

/-- R211: the turns of the host and SEQ come again when they are used up, so RX is issued again and again. -/
theorem test_turns_come_again :
    isNext (Host.Core.run core 5
        { rest with later := .again [.hostWriteCmd 4, .seq] })
      (fun t => decide (t.seq = .run (pos 4 {} 0 0) ∧ t.rsp = 5 ∧ t.nextTurn = .seq)) = true := by decide

/-- Z3: a reset in the middle of a TX gives no response and logs nothing. -/
theorem test_reset_aborts :
    isNext (runEvent .reset (atPos (pos 0x203 argsV1 4 0 { w := wordsV1 })))
      (fun t => decide (t.seq = .idle ∧ t.rsp = 0 ∧ t.buslog = [] ∧ t.txrq 0 = false)) = true := by decide

/-! ## Witnesses: states and operands that meet the statements' hypotheses

One theorem for each statement with hypotheses, one conjunct for each clause, at a boundary value of its range. -/

theorem witness_decode_of_encode : (Instr.tx true true 15).wellFormed = true ∧ (Instr.fadd true).wellFormed = true := by
  decide

theorem witness_command_word_layout : 15 ≤ 15 ∧ decode 0x1005 = .ok (.fadd true) := by decide

theorem witness_legal_words :
    decode 0xF31 = .ok (.enc true true 15) ∧ (⟨.enc, 1, 0xFFFFF0CF⟩ : OpcodeRow) ∈ opcodeTable ∧
    (⟨.enc, 1, 0xFFFFF0CF⟩ : OpcodeRow).matchesWord 0xF31 = true ∧ decode 0x9 = .error .reservedOpcode ∧
    rest.seq = .idle := by decide

theorem witness_well_formed_frame_bounds :
    wellFormedFrame ⟨0x7FF, false, true, 8, []⟩ = true ∧ wellFormedFrame ⟨0x1FFFFFFF, true, false, 0, []⟩ = true := by
  decide

theorem witness_frame_operand :
    7 < (frameOperand false false 15 argsV1).data.length ∧ decode 0xF01 = .ok (.enc false false 15) ∧
    decode 0x1005 = .ok (.fadd true) := by decide

theorem witness_frame_round_trip : wellFormedFrame frameV5 = true ∧ wellFormedFrame ⟨0x7FF, false, true, 8, []⟩ = true := by
  decide

theorem witness_decoded_frame_fields :
    8 < (⟨0, 9, 0, 0⟩ : FrameWords).dlw.toNat % 16 ∧ (⟨0, 0xFFFFFFF8, 0, 0⟩ : FrameWords).dlw.toNat % 16 ≤ 8 ∧
    (decodeFrame ⟨4, 8, 1, 2⟩).isSome = true := by decide

/-- W1 and its words with the reserved bits cleared. -/
theorem witness_canonical_words :
    dlwDlc 8 ≤ 8 ∧ canonical (encodeFrame frameV5) = true ∧
    clearReserved ⟨0x2460FFF9, 2, 0x2211, 0⟩ = clearReserved wordsV1 := by decide

theorem witness_encoded_id_word :
    wellFormedFrame frameV1 = true ∧ frameV1.ext = false ∧ wellFormedFrame frameV5 = true ∧ frameV5.ext = true := by decide

theorem witness_encoded_data_word :
    wellFormedFrame ⟨0x3AB, false, false, 5, [0xAA, 0xBB, 0xCC, 0xDD, 0xEE]⟩ = true ∧
    (∀ i : Fin 8, i.val < dataLength (idwRtr 0x75600000) (dlwDlc 5) →
      (if i.val < 4 then (0xDDCCBBAA : Word) else 0x112233EE).extractLsb' (8 * (i.val % 4)) 8 =
        (if i.val < 4 then (0xDDCCBBAA : Word) else 0x000000EE).extractLsb' (8 * (i.val % 4)) 8) ∧
    dataLength (idwRtr 0x20000002) (dlwDlc 8) = 0 := by decide

theorem witness_reissued_result : wellFormedFrame frameV5 = true := by decide

theorem witness_assembled_command :
    (AsmCommand.tx true 0x12345678 8 [1, 2, 3, 4, 5, 6, 7, 8]).valid = true ∧
    (assemble (.tx true 0x12345678 8 [1, 2, 3, 4, 5, 6, 7, 8])).1 = .tx true false 8 ∧
    (AsmCommand.encRemote true 0x12345678 15).valid = true ∧
    (assemble (.encRemote true 0x12345678 15)).1 = .enc true true 15 ∧
    (assemble (.fadd 7 (some 1))).1 = .fadd true ∧ (assemble (.fadd 7 none)).1 = .fadd false := by decide

/-- SEQ at upc 0 with the arguments of V1, and a DLC of 8 and of 9. -/
theorem witness_enc :
    (atPos (pos 0x801 argsV1 0 0)).atStep (pos 0x801 argsV1 0 0) 0 ∧
    wellFormedFrame (frameOperand false false 8 argsV1) = true ∧
    wellFormedFrame (frameOperand false false 9 argsV1) = false := by decide

theorem witness_dec :
    (atPos (pos 2 {} 0 0)).atStep (pos 2 {} 0 0) 0 ∧ (decodeFrame ⟨0, 8, 0, 0⟩).isSome = true ∧
    decodeFrame ⟨0, 9, 0, 0⟩ = none := by decide

/-- TX: a checked frame and one that is not; the scan at mailbox 0 Free, 1 Busy, 2 Busy; the writes at mailbox 2. -/
theorem witness_tx_micro_steps :
    ((atPos (pos 0x203 argsV1 0 0)).atStep (pos 0x203 argsV1 0 0) 0 ∧
      wellFormedFrame (frameOperand false false 2 (pos 0x203 argsV1 0 0).arg) = true) ∧
    ((atPos (pos 0x203 ⟨0x800, 0, 0, 0⟩ 0 0)).atStep (pos 0x203 ⟨0x800, 0, 0, 0⟩ 0 0) 0 ∧
      wellFormedFrame (frameOperand false false 2 (pos 0x203 ⟨0x800, 0, 0, 0⟩ 0 0).arg) = false) ∧
    ((atPos (pos 0x203 argsV1 1 0)).atStep (pos 0x203 argsV1 1 0) 1 ∧ (atPos (pos 0x203 argsV1 1 0)).txrq 0 = false) ∧
    (let s := { atPos (pos 0x203 argsV1 1 1) with txmb := Vector.replicate 3 busyMailbox };
      s.atStep (pos 0x203 argsV1 1 1) 1 ∧ s.txrq 1 = true) ∧
    (let s := { atPos (pos 0x203 argsV1 1 2) with txmb := Vector.replicate 3 busyMailbox };
      s.atStep (pos 0x203 argsV1 1 2) 1 ∧ s.txrq 2 = true) ∧
    ∀ upc : Fin 7, (atPos (pos 0x203 argsV1 upc.val 2)).atStep (pos 0x203 argsV1 upc.val 2) upc.val := by decide

theorem witness_tx_first_free :
    rest.seqOnly ∧ wellFormedFrame (frameOperand false false 2 argsV1) = true ∧
    firstFree (rest.txrq 0) (rest.txrq 1) (rest.txrq 2) = some 0 ∧ firstFree true true false = some 2 ∧
    (let s := { rest with txmb := Vector.replicate 3 busyMailbox };
      firstFree (s.txrq 0) (s.txrq 1) (s.txrq 2) = none) := by decide

theorem witness_tx_retry_later :
    (pos 0x203 argsV1 1 2).stopped = false ∧
    isNext (exec (.tx false false 2)
        { atPos (pos 0x203 argsV1 1 2) with txmb := Vector.replicate 3 busyMailbox })
      (fun t => decide (t.seq = .idle ∧ rspSt t.rsp = Status.retryLater.code)) = true := by decide

/-- A block at rest meets the invariant when RSP and the FIFO do and its active banks are distinct and selected. -/
theorem inv_idle {s : State} (hseq : s.seq = .idle) (hpend : rspPend s.rsp = false) (hr : rspLegal s.rsp)
    (hd : 1 ≤ s.params.rxDepth) (hq : s.rxq.length ≤ s.params.rxDepth) (hu : s.uniqueFilters) (hs : s.selectedBanks)
    (hf : s.faults.Nodup) : Inv s :=
  ⟨hr, by unfold State.seqSound; rw [hseq]; exact hpend, hd, hq, hu, hs, hf⟩

/-- Mailbox 1 is Busy, and its completion is the next turn. -/
def completing : State := { rest with txmb := #v[{}, busyMailbox, {}], sched := [.txDone 1] }

theorem seqSound_at {s : State} {r : Run} {i : Instr} (hs : s.seq = .run r) (hp : rspPend s.rsp = true)
    (hd : decode r.cmd = .ok i) (hi : inPosition i r s) : s.seqSound := by
  unfold State.seqSound
  rw [hs]
  simp only [hd]
  exact ⟨hp, hi⟩

theorem completing_inv : Inv completing :=
  inv_idle rfl (by decide) (by decide) (by decide) (by decide) (by decide) (by decide) (by decide)

theorem witness_busy_mailbox :
    Inv completing ∧ completing.nextTurn ≠ .reset ∧ completing.txrq 1 = true ∧ ∃ t, step completing = .next t :=
  ⟨completing_inv, by decide, by decide, _, rfl⟩

theorem witness_only_completion :
    Inv completing ∧ completing.txrq 1 = true ∧ ∃ t, step completing = .next t ∧ t.txrq 1 = false :=
  ⟨completing_inv, by decide, _, rfl, by decide⟩

/-- TX of V1 at its last micro-step, at mailbox 2. -/
def txAtLast : State :=
  { atPos (pos 0x203 argsV1 6 2 { w := wordsV1 }) with
    txmb := #v[busyMailbox, busyMailbox, ⟨0x24600000, 2, 0x2211, 0⟩] }

theorem txAtLast_inv : Inv txAtLast where
  rsp := by decide
  seq := seqSound_at rfl (by decide) (by decide : decode _ = .ok (.tx false false 2)) (by show txPosition false false 2 _ txAtLast; decide)
  depth := by decide
  fifo := by decide
  unique := by decide
  selected := by decide
  faultSet := by decide

theorem witness_only_completion_command :
    Inv txAtLast ∧ txAtLast.txrq 1 = true ∧ txAtLast.current = some (.tx false false 2) ∧
    ∃ t, exec (.tx false false 2) txAtLast = .next t :=
  ⟨txAtLast_inv, by decide, by decide, _, rfl⟩

theorem witness_request_flag :
    Inv txAtLast ∧ txAtLast.txrq 2 = false ∧ ∃ t, step txAtLast = .next t ∧ t.txrq 2 = true :=
  ⟨txAtLast_inv, by decide, _, rfl, by decide⟩

theorem witness_completion : completing.txrq 1 = true ∧ completing.txrq 0 = false := by decide

/-- Four frames, the script planned from a block at rest. -/
theorem witness_exhaustion :
    let ext (j : Fin 4) := j.val == 1
    let rtr (j : Fin 4) := j.val == 2
    let dlc (j : Fin 4) := 2 * j.val
    let a (j : Fin 4) : Args := ⟨j.val, 0, 0, 0⟩
    let script (j : Fin 4) := hostScript (.tx (ext j) (rtr j) (dlc j)) (a j)
    let s := { rest with sched := script 0 ++ script 1 ++ script 2 ++ script 3 }
    s.seq = .idle ∧ (∀ m, s.txrq m = false) ∧
    (∀ j, wellFormedFrame (frameOperand (ext j) (rtr j) (dlc j) (a j)) = true) ∧
    s.sched = script 0 ++ script 1 ++ script 2 ++ script 3 := by
  refine ⟨rfl, by decide, by decide, rfl⟩

/-- Mailboxes 0 and 1 are Busy, so the frame goes to 2. -/
theorem witness_frame_to_bus :
    let script := hostScript (.tx false false 2) argsV1 ++ [.txDone 2]
    let s := { rest with sched := script, txmb := #v[busyMailbox, busyMailbox, {}] }
    s.seq = .idle ∧ wellFormedFrame (frameOperand false false 2 argsV1) = true ∧ s.sched = script ∧
    firstFree (s.txrq 0) (s.txrq 1) (s.txrq 2) = some 2 := ⟨rfl, by decide, rfl, by decide⟩

/-- RX: an empty FIFO and one with an entry; an entry that decodes and one that does not; the frame at hand. -/
theorem witness_rx_micro_steps :
    ((atPos (pos 4 {} 0 0)).atStep (pos 4 {} 0 0) 0 ∧ (atPos (pos 4 {} 0 0)).rxq = []) ∧
    (let s := { atPos (pos 4 {} 0 0) with rxq := [wordsV1] };
      s.atStep (pos 4 {} 0 0) 0 ∧ s.rxq ≠ []) ∧
    (let s := { atPos (pos 4 {} 1 0) with rxq := [wordsV1] };
      s.atStep (pos 4 {} 1 0) 1 ∧ s.rxq = wordsV1 :: [] ∧ decodeFrame wordsV1 = some frameV1) ∧
    (let s := { atPos (pos 4 {} 1 0) with rxq := [⟨0x24600000, 9, 0, 0⟩] };
      s.atStep (pos 4 {} 1 0) 1 ∧ s.rxq = ⟨0x24600000, 9, 0, 0⟩ :: [] ∧ decodeFrame ⟨0x24600000, 9, 0, 0⟩ = none) ∧
    (let r := pos 4 {} 2 0 { e := wordsV1, r := frameV1 };
      let s := { atPos r with rxq := [wordsV1] };
      s.atStep r 2 ∧ s.rxq = wordsV1 :: [] ∧ wellFormedFrame r.snap.r = true) := by decide

/-- A block whose bank 27 admits V1, its FIFO with room and full, under both overrun rules. -/
theorem witness_arrival :
    (let s := { rest with fb := lastBankOnly };
      s.accepts 0x24600002 = false ∧ s.accepts 0x24600000 = true ∧ s.rxq.length < s.params.rxDepth) ∧
    (let s := { rest with fb := lastBankOnly, rxq := [wordsV1, wordsV1, wordsV1] };
      s.accepts 0x24600000 = true ∧ s.params.rxDepth ≤ s.rxq.length ∧ s.params.rxOverrun = .discardNew) ∧
    (let s := { rest with
        fb := lastBankOnly, rxq := [wordsV1, wordsV1, wordsV1], params := { params with rxOverrun := .overwriteLast } };
      s.accepts 0x24600000 = true ∧ s.params.rxDepth ≤ s.rxq.length ∧ s.params.rxOverrun = .overwriteLast ∧
        s.rxq = [wordsV1, wordsV1] ++ [wordsV1]) := by decide

theorem witness_default_match : params.matching = .maskFormula := by decide

/-- RX of V1 at its last micro-step. -/
def rxAtLast : State :=
  { atPos (pos 4 {} 2 0 { e := wordsV1, r := frameV1 }) with rxq := [wordsV1, wordsV1, wordsV1] }

theorem rxAtLast_inv : Inv rxAtLast where
  rsp := by decide
  seq := seqSound_at rfl (by decide) (by decide : decode _ = .ok .rx) (by show rxPosition _ rxAtLast; decide)
  depth := by decide
  fifo := by decide
  unique := by decide
  selected := by decide
  faultSet := by decide

theorem witness_fifo_order : Inv rxAtLast ∧ ∃ t, step rxAtLast = .next t ∧ t.rxq = [wordsV1, wordsV1] :=
  ⟨rxAtLast_inv, _, rfl, by decide⟩

/-- One step from reset, an arrival, with no active bank before it or after; and the other two clauses. -/
theorem witness_no_filter :
    (∃ t, runSteps 1 { State.reset with params := params, sched := [.rxArrive wordsV1] } = .next t ∧
      (∀ k, (State.reset.bank k).act = false) ∧ ∀ k, (t.bank k).act = false) ∧
    decode 4 = .ok .rx ∧ rest.rxq = [] ∧
    ∃ t, step (atPos (pos 5 ⟨0x24600000, 0, 0, 0⟩ 6 27)) = .next t ∧ (t.bank 27).act = true :=
  ⟨⟨_, rfl, by decide, by decide⟩, by decide, by decide, _, rfl, by decide⟩

/-- A block at rest with the script of an exact filter of `fid`, an arrival of V1 and an RX. -/
def exactScript (fid : Word) : List Event :=
  hostScript (.fadd false) ⟨fid, 0, 0, 0⟩ ++ [.rxArrive wordsV1] ++ hostScript .rx {}

/-- An identifier that the arriving ID word equals, and one that it does not. -/
theorem witness_exact_filter :
    (let s := { rest with sched := exactScript 0x24600000 };
      s.seq = .idle ∧ (∀ k, (s.bank k).act = false) ∧ s.rxq = [] ∧ 1 ≤ s.params.rxDepth ∧
      decodeFrame wordsV1 = some frameV1 ∧ s.sched = exactScript 0x24600000 ∧ wordsV1.idw = 0x24600000) ∧
    (let s := { rest with sched := exactScript 0x24600001 };
      s.seq = .idle ∧ (∀ k, (s.bank k).act = false) ∧ s.rxq = [] ∧ 1 ≤ s.params.rxDepth ∧
      decodeFrame wordsV1 = some frameV1 ∧ s.sched = exactScript 0x24600001 ∧ wordsV1.idw ≠ 0x24600001) :=
  ⟨⟨rfl, by decide, rfl, by decide, by decide, rfl, rfl⟩, ⟨rfl, by decide, rfl, by decide, by decide, rfl, by decide⟩⟩

/-- FADD: a duplicate in bank 27 and no duplicate; the scan at bank 0, 26 and 27; the writes at bank 27. -/
theorem witness_fadd_micro_steps :
    (let r := pos 5 ⟨0x24600000, 0, 0, 0⟩ 0 0;
      let s := { atPos r with fb := lastBankOnly };
      s.atStep r 0 ∧ (s.bank 27).act = true ∧ (s.bank 27).fid = r.arg.arg0 ∧
        ∀ l : Fin 28, l < 27 → ¬ ((s.bank l).act = true ∧ (s.bank l).fid = r.arg.arg0)) ∧
    (let r := pos 5 ⟨0x24600001, 0, 0, 0⟩ 0 0;
      let s := { atPos r with fb := lastBankOnly };
      s.atStep r 0 ∧ ∀ j : Fin 28, ¬ ((s.bank j).act = true ∧ (s.bank j).fid = r.arg.arg0)) ∧
    (let s := { atPos (pos 5 {} 1 0) with fb := lastBankOnly };
      s.atStep (pos 5 {} 1 0) 1 ∧ (s.bank 0).act = false) ∧
    (let s := { atPos (pos 5 {} 1 26) with fb := fullBanks };
      s.atStep (pos 5 {} 1 26) 1 ∧ (s.bank 26).act = true) ∧
    (let s := { atPos (pos 5 {} 1 27) with fb := fullBanks };
      s.atStep (pos 5 {} 1 27) 1 ∧ (s.bank 27).act = true) ∧
    ∀ upc : Fin 7, (atPos (pos 5 {} upc.val 27)).atStep (pos 5 {} upc.val 27) upc.val := by decide

theorem witness_fadd_lowest_free :
    rest.seqOnly ∧ (∀ j, ¬ ((rest.bank j).act = true ∧ (rest.bank j).fid = rest.arg.arg0)) ∧
    (rest.bank 0).act = false ∧
    (let s := { rest with fb := fullBanks.set 27 {}, arg := ⟨28, 0, 0, 0⟩ };
      s.seqOnly ∧ (∀ j, ¬ ((s.bank j).act = true ∧ (s.bank j).fid = s.arg.arg0)) ∧ (s.bank 27).act = false ∧
        ∀ j : Fin 28, j < 27 → (s.bank j).act = true) ∧
    (let s := { rest with fb := fullBanks, arg := ⟨28, 0, 0, 0⟩ };
      (∀ j, ¬ ((s.bank j).act = true ∧ (s.bank j).fid = s.arg.arg0)) ∧ ∀ k, (s.bank k).act = true) := by decide

/-- FADD at its last micro-step, at bank 0, with bank 27 active. -/
def faddAtLast : State :=
  { atPos (pos 0x1005 ⟨0x20, 0xFFE00000, 0, 0⟩ 6 0) with
    fb := lastBankOnly.set 0 ⟨false, true, false, 0x20, 0xFFE00000⟩ }

theorem faddAtLast_inv : Inv faddAtLast where
  rsp := by decide
  seq := seqSound_at rfl (by decide) (by decide : decode _ = .ok (.fadd true)) (by show faddPosition true _ faddAtLast; decide)
  depth := by decide
  fifo := by decide
  unique := by decide
  selected := by decide
  faultSet := by decide

theorem witness_activation :
    Inv faddAtLast ∧ (faddAtLast.bank 0).act = false ∧ ∃ t, step faddAtLast = .next t ∧ (t.bank 0).act = true :=
  ⟨faddAtLast_inv, by decide, _, rfl, by decide⟩

theorem reachable_rest : Reachable rest := ⟨params, [], .again [], 0, by decide, rfl⟩

theorem witness_active_bank :
    Inv faddAtLast ∧ faddAtLast.nextTurn ≠ .reset ∧ (faddAtLast.bank 27).act = true ∧
    (∃ t, step faddAtLast = .next t) ∧ Reachable rest :=
  ⟨faddAtLast_inv, by decide, by decide, ⟨_, rfl⟩, reachable_rest⟩

/-- A reachable state with an active bank: bank 0, after a FADD. -/
theorem witness_unique_identifiers :
    ∃ t, Reachable t ∧ (t.bank 0).act = true :=
  ⟨_, ⟨params, .hostWriteCmd 5 :: List.replicate 7 .seq, .free 0, 8, by decide, rfl⟩, by decide⟩

/-- FREM: each micro-step at bank 27, and a bank that is passed over in both ways, at 26 and at 27. -/
theorem witness_frem_micro_steps :
    (∀ upc : Fin 4, (atPos (pos 6 ⟨0x24600000, 0, 0, 0⟩ upc.val 27)).atStep (pos 6 ⟨0x24600000, 0, 0, 0⟩ upc.val 27)
      upc.val) ∧
    (let s := { atPos (pos 6 ⟨0x24600000, 0, 0, 0⟩ 1 27) with fb := lastBankOnly };
      s.atStep (pos 6 ⟨0x24600000, 0, 0, 0⟩ 1 27) 1 ∧ (s.bank 27).act = true) ∧
    (let s := { atPos (pos 6 ⟨0x24600000, 0, 0, 0⟩ 2 27) with fb := lastBankOnly };
      s.atStep (pos 6 ⟨0x24600000, 0, 0, 0⟩ 2 27) 2 ∧ (s.bank 27).fid = 0x24600000) ∧
    (let s := { atPos (pos 6 {} 1 26) with fb := lastBankOnly };
      s.atStep (pos 6 {} 1 26) 1 ∧ (s.bank 26).act = false) ∧
    (let s := { atPos (pos 6 {} 2 27) with fb := lastBankOnly };
      s.atStep (pos 6 {} 2 27) 2 ∧ (s.bank 27).fid ≠ (pos 6 {} 2 27).arg.arg0) := by decide

theorem witness_frem_lowest_match :
    rest.seqOnly ∧ (∀ k, ¬ ((rest.bank k).act = true ∧ (rest.bank k).fid = rest.arg.arg0)) ∧
    (let s := { rest with fb := lastBankOnly, arg := ⟨0x24600000, 0, 0, 0⟩ };
      ((s.bank 27).act = true ∧ (s.bank 27).fid = s.arg.arg0) ∧
        ∀ j : Fin 28, j < 27 → ¬ ((s.bank j).act = true ∧ (s.bank j).fid = s.arg.arg0)) := by decide

theorem witness_frem_twice :
    let script := hostScript .frem ⟨7, 0, 0, 0⟩ ++ hostScript .frem ⟨7, 0, 0, 0⟩
    let s := { rest with fb := lastBankOnly, sched := script }
    s.uniqueFilters ∧ s.seq = .idle ∧ s.sched = script ∧
    ∀ k, ¬ ((s.bank k).act = true ∧ (s.bank k).fid = 7) := ⟨by decide, rfl, rfl, by decide⟩

theorem witness_fclr :
    (atPos (pos 7 {} 0 27)).atStep (pos 7 {} 0 27) 0 ∧ (atPos (pos 7 {} 0 26)).atStep (pos 7 {} 0 26) 0 ∧
    rest.seqOnly := by decide

theorem witness_fcnt :
    (atPos (pos 8 {} 0 27)).atStep (pos 8 {} 0 27) 0 ∧ (atPos (pos 8 {} 0 26)).atStep (pos 8 {} 0 26) 0 ∧
    rest.seqOnly := by decide

theorem witness_twenty_eight_filters :
    let filters : List (Bool × Args) := (List.range 28).map fun n => (n == 3, ⟨BitVec.ofNat 32 n, 0, 0, 0⟩)
    let add (x : Bool × Args) := hostScript (.fadd x.1) x.2
    let script := filters.flatMap add ++ hostScript .fcnt {} ++ add (false, ⟨28, 0, 0, 0⟩) ++ hostScript .fcnt {}
    let s := { rest with sched := script }
    s.seq = .idle ∧ (∀ k, (s.bank k).act = false) ∧ filters.length = 28 ∧
    (filters.map fun x => x.2.arg0).Nodup ∧ (28 : Word) ∉ filters.map (fun x => x.2.arg0) ∧ s.sched = script :=
  ⟨rfl, by decide, by decide, by decide, by decide, rfl⟩

theorem witness_retry_later_causes :
    isNext (exec (.tx false false 2)
        { atPos (pos 0x203 argsV1 1 2) with txmb := Vector.replicate 3 busyMailbox })
      (fun t => decide (t.seq = .idle ∧ rspSt t.rsp = Status.retryLater.code)) = true ∧
    isNext (exec .rx (atPos (pos 4 {} 0 0)))
      (fun t => decide (t.seq = .idle ∧ rspSt t.rsp = Status.retryLater.code)) = true ∧
    isNext (exec (.tx false false 2)
        { atPos (pos 0x203 argsV1 1 0) with txmb := Vector.replicate 3 busyMailbox })
      (fun t => decide (t.seq = .run (pos 0x203 argsV1 1 1))) = true := by decide

/-- A host that issues RX again and again on an empty FIFO. -/
def retryingRx : State := { rest with later := .again [.hostWriteCmd (encode .rx), .seq] }

/-- A host that issues TX again and again on Busy mailboxes. -/
def retryingTx : State :=
  { rest with
    later := .again (.hostWriteCmd (encode (.tx false false 8)) :: List.replicate 4 .seq)
    txmb := Vector.replicate 3 busyMailbox }

theorem witness_retry_for_ever :
    (retryingRx.seq = .idle ∧ retryingRx.sched = [] ∧
      retryingRx.later = .again [.hostWriteCmd (encode .rx), .seq] ∧ retryingRx.rxq = []) ∧
    (retryingTx.seq = .idle ∧ retryingTx.sched = [] ∧
      retryingTx.later = .again (.hostWriteCmd (encode (.tx false false 8)) :: List.replicate 4 .seq) ∧
      (∀ m, retryingTx.txrq m = true) ∧
      wellFormedFrame (frameOperand false false 8 retryingTx.arg) = true) := by decide

theorem witness_no_error_response :
    rspSt rest.rsp ≠ Status.error.code ∧ rspEcode rest.rsp = 0 ∧ (∃ t, step rest = .next t) ∧ Reachable rest :=
  ⟨by decide, by decide, ⟨_, rfl⟩, reachable_rest⟩

/-- One fault of each command that has one. -/
theorem witness_fault_stops :
    isNext (exec (.enc false false 9) (atPos (pos 0x901 argsV1 0 0)))
      (fun t => decide (t.seq = .run { pos 0x901 argsV1 0 0 with stopped := true })) = true ∧
    isNext (exec .dec (atPos (pos 2 ⟨0, 9, 0, 0⟩ 0 0)))
      (fun t => decide (t.seq = .run { pos 2 ⟨0, 9, 0, 0⟩ 0 0 with stopped := true })) = true ∧
    isNext (exec (.tx false false 9) (atPos (pos 0x903 argsV1 0 0)))
      (fun t => decide (t.seq = .run { pos 0x903 argsV1 0 0 with stopped := true })) = true ∧
    isNext (exec .rx { atPos (pos 4 {} 1 0) with rxq := [⟨0, 9, 0, 0⟩] })
      (fun t => decide (t.seq = .run { pos 4 {} 1 0 { e := ⟨0, 9, 0, 0⟩ } with stopped := true })) = true ∧
    isNext (exec (.fadd false) { atPos (pos 5 ⟨0x24600000, 0, 0, 0⟩ 0 0) with fb := lastBankOnly })
      (fun t => decide (t.seq = .run { pos 5 ⟨0x24600000, 0, 0, 0⟩ 0 0 with stopped := true })) = true := by decide

theorem witness_refused_writes :
    rest.seq = .idle ∧ decode 0x41 = .error .reservedBits ∧ (atPos (pos 8 {} 0 0)).seq = .run (pos 8 {} 0 0) := by decide

/-- R205's cases: an ill-formed frame, a duplicate with every bank active, an empty FIFO and an entry of DLC 9. -/
theorem witness_outcome_precedence :
    rest.seq = .idle ∧ rest.seqOnly ∧ decode 0x41 = .error .reservedBits ∧
    wellFormedFrame (frameOperand false false 15 rest.arg) = false ∧
    (let s := { rest with txmb := Vector.replicate 3 busyMailbox };
      s.seq = .idle ∧ s.seqOnly ∧ (∀ m, s.txrq m = true) ∧
        wellFormedFrame (frameOperand false false 8 s.arg) = true) ∧
    (let s := { rest with arg := ⟨0, 9, 0, 0⟩ };
      s.seq = .idle ∧ s.seqOnly ∧
        decodeFrame ⟨s.arg.arg0, s.arg.arg1, s.arg.arg2, s.arg.arg3⟩ = none) ∧
    (let s := { rest with fb := fullBanks, arg := ⟨27, 0, 0, 0⟩ };
      s.seq = .idle ∧ s.seqOnly ∧ (s.bank 27).act = true ∧ (s.bank 27).fid = s.arg.arg0) ∧
    rest.rxq = [] ∧
    (let s := { rest with rxq := [⟨0x24600000, 9, 0, 0⟩] };
      s.seq = .idle ∧ s.seqOnly ∧ s.rxq = ⟨0x24600000, 9, 0, 0⟩ :: [] ∧
        decodeFrame ⟨0x24600000, 9, 0, 0⟩ = none) := by decide

theorem witness_records_only_grow :
    (∃ t, step completing = .next t) ∧ completing.nextTurn = .txDone 1 ∧ completing.txrq 1 = true :=
  ⟨⟨_, rfl⟩, by decide, by decide⟩

theorem witness_issue : rest.seq = .idle ∧ decode 0x813 = .ok (.tx true false 8) ∧ (1 : Fin 4) ≠ 3 := by decide

/-- For each command, latched arguments that differ where it does not read. -/
theorem witness_unused_arguments :
    isNext (exec (.enc false false 2) (atPos (pos 0x201 argsV1 0 0))) (fun _ => true) = true ∧
    ({ argsV1 with arg3 := 7 } : Args) = { argsV1 with arg3 := ({ argsV1 with arg3 := 7 } : Args).arg3 } ∧
    isNext (exec (.fadd true) (atPos (pos 0x1005 argsV1 0 0))) (fun _ => true) = true ∧
    isNext (exec .frem (atPos (pos 6 argsV1 0 0))) (fun _ => true) = true ∧
    isNext (exec .rx (atPos (pos 4 argsV1 0 0))) (fun _ => true) = true := by decide

theorem witness_field_writes : completing.nextTurn ≠ .reset ∧ ∃ t, step completing = .next t :=
  ⟨by decide, _, rfl⟩

theorem witness_status_bits :
    { rest with rxq := [wordsV1] }.rxq = wordsV1 :: [] ∧ rest.rxq = [] := by decide

/-- A next state of each command. -/
theorem witness_command_frame :
    isNext (exec (.enc false false 2) (atPos (pos 0x201 argsV1 0 0))) (fun _ => true) = true ∧
    isNext (exec .dec (atPos (pos 2 argsV1 0 0))) (fun _ => true) = true ∧
    isNext (exec (.tx false false 2) (atPos (pos 0x203 argsV1 6 2))) (fun _ => true) = true ∧
    isNext (exec .rx (atPos (pos 4 {} 0 0))) (fun _ => true) = true ∧
    isNext (exec (.fadd false) (atPos (pos 5 {} 6 27))) (fun _ => true) = true ∧
    isNext (exec .frem (atPos (pos 6 {} 3 27))) (fun _ => true) = true ∧
    isNext (exec .fclr (atPos (pos 7 {} 0 27))) (fun _ => true) = true ∧
    isNext (exec .fcnt (atPos (pos 8 {} 0 27))) (fun _ => true) = true := by decide

theorem witness_step_runs :
    (atPos (pos 8 {} 0 0)).seq = .run (pos 8 {} 0 0) ∧ decode (pos 8 {} 0 0).cmd = .ok .fcnt ∧
    (atPos (pos 8 {} 0 0)).nextTurn = .seq ∧ rest.seq = .idle ∧ rest.nextTurn = .seq ∧
    { rest with sched := [.seq, .reset] }.sched = .seq :: [.reset] ∧ rest.seqOnly ∧
    (retryingRx.sched = [] ∧ retryingRx.later = .again (.hostWriteCmd 4 :: [.seq])) ∧
    ({ rest with later := .free 7 }.sched = [] ∧ { rest with later := .free 7 }.later = .free 7) ∧
    decodeTableWord 32 0xF31 = some (.enc true true 15) := by decide

theorem witness_invariant_at_reset : 1 ≤ { params with rxDepth := 1 }.rxDepth := by decide

theorem witness_invariant : Inv faddAtLast ∧ Inv txAtLast ∧ Inv rxAtLast ∧ Inv completing :=
  ⟨faddAtLast_inv, txAtLast_inv, rxAtLast_inv, completing_inv⟩

theorem witness_command_ends :
    decode 6 = .ok .frem ∧ Event.reset ∉ (.txDone 0 :: List.replicate 58 .seq : List Event) ∧
    maxMicroSteps Instr.frem.op ≤ (.txDone 0 :: List.replicate 58 .seq : List Event).count .seq := by decide

/-- A state and one that differs from it in unspecified fields: those of a Free mailbox and of an inactive bank, `TDTR_X`
of a Busy one, and CMD. -/
theorem witness_unspecified_fields :
    Inv completing ∧ (∃ t, step completing = .next t) ∧
    AgreeOnSpecified completing
      { completing with
        txmb := #v[⟨0x12340000, 7, 8, 9⟩, { busyMailbox with tdtr := 0xABCD0002 }, {}]
        fb := (Vector.replicate 28 {}).set 0 ⟨false, true, true, 5, 6⟩
        cmd := 99 } :=
  ⟨completing_inv, ⟨_, rfl⟩, ⟨rfl, by decide, by decide, by decide, by decide, by decide, by decide, by decide, by decide,
    by decide, by decide⟩⟩

end Sys2Proof.Tests
end

/-!
The records the block keeps for ever: FAULTS and REFUSED (R34), and BUSLOG (R35). Every turn but a completion leaves BUSLOG
as it is, and every turn only adds to the other two.
-/

namespace Sys2Proof.Machine

variable {s t : State}

/-- From `s` to `t` no fault record is lost, REFUSED is not cleared, and BUSLOG stands still. -/
structure RecordsKept (s t : State) : Prop where
  faults : ∀ x ∈ s.faults, x ∈ t.faults
  refused : s.refused = true → t.refused = true
  buslog : t.buslog = s.buslog

/-- Nothing is lost where no record is written. -/
theorem RecordsKept.of_eq (hf : t.faults = s.faults) (hr : t.refused = s.refused) (hb : t.buslog = s.buslog) :
    RecordsKept s t :=
  ⟨fun _ hx => hf ▸ hx, fun h => hr ▸ h, hb⟩

theorem RecordsKept.refl (s : State) : RecordsKept s s := .of_eq rfl rfl rfl

/-- A fault adds its record to FAULTS (R203). -/
theorem recordsKept_raiseFault (s : State) (r : Run) (rec : FaultRecord) : RecordsKept s (s.raiseFault r rec) :=
  ⟨fun _ hx => mem_insertFault.2 (.inr hx), id, rfl⟩

/-- A refusal sets its mark (R204). -/
theorem recordsKept_refuse (s : State) : RecordsKept s s.refuse := ⟨fun _ => id, fun _ => rfl, rfl⟩

/-! ### A micro-step of each command -/

theorem execEnc_recordsKept {ext rtr : Bool} {dlc : Nat} (h : execEnc ext rtr dlc s = .next t) : RecordsKept s t := by
  obtain ⟨r, -, ⟨-, rfl⟩ | ⟨-, -, ⟨-, rfl⟩ | ⟨-, rfl⟩⟩⟩ := execEnc_next h
  · exact .refl _
  · exact .of_eq rfl rfl rfl
  · exact recordsKept_raiseFault ..

theorem execDec_recordsKept (h : execDec s = .next t) : RecordsKept s t := by
  obtain ⟨r, -, ⟨-, rfl⟩ | ⟨-, -, ⟨f, -, rfl⟩ | ⟨-, rfl⟩⟩⟩ := execDec_next h
  · exact .refl _
  · exact .of_eq rfl rfl rfl
  · exact recordsKept_raiseFault ..

theorem execTx_recordsKept {ext rtr : Bool} {dlc : Nat} (h : execTx ext rtr dlc s = .next t) : RecordsKept s t := by
  obtain ⟨r, -, ⟨-, rfl⟩ | ⟨-, ⟨-, -, rfl⟩ | ⟨-, -, rfl⟩ | ⟨m, -, hscan⟩⟩⟩ := execTx_next h
  · exact .refl _
  · exact .of_eq rfl rfl rfl
  · exact recordsKept_raiseFault ..
  · obtain ⟨-, -, -, rfl⟩ | ⟨-, -, -, rfl⟩ | ⟨-, -, rfl⟩ | ⟨-, rfl⟩ | ⟨-, rfl⟩ | ⟨-, rfl⟩ | ⟨-, rfl⟩ | ⟨-, rfl⟩ := hscan
      <;> exact .of_eq rfl rfl rfl

theorem execRx_recordsKept (h : execRx s = .next t) : RecordsKept s t := by
  obtain ⟨r, -, ⟨-, rfl⟩ | ⟨-, ⟨-, -, rfl⟩ | ⟨-, -, rfl⟩ | ⟨e, q, -, -, -, rfl⟩ | ⟨e, q, f, -, -, -, rfl⟩ | ⟨-, rfl⟩⟩⟩ :=
    execRx_next h
  · exact .refl _
  · exact .of_eq rfl rfl rfl
  · exact .of_eq rfl rfl rfl
  · exact recordsKept_raiseFault ..
  · exact .of_eq rfl rfl rfl
  · exact .of_eq rfl rfl rfl

theorem execFadd_recordsKept {hasMask : Bool} (h : execFadd hasMask s = .next t) : RecordsKept s t := by
  obtain ⟨r, -, ⟨-, rfl⟩ | ⟨-, ⟨j, -, -, rfl⟩ | ⟨-, -, rfl⟩ | ⟨k, -, hscan⟩⟩⟩ := execFadd_next h
  · exact .refl _
  · exact recordsKept_raiseFault ..
  · exact .of_eq rfl rfl rfl
  · obtain ⟨-, -, -, rfl⟩ | ⟨-, -, -, rfl⟩ | ⟨-, -, rfl⟩ | ⟨-, rfl⟩ | ⟨-, rfl⟩ | ⟨-, rfl⟩ | ⟨-, rfl⟩ | ⟨-, rfl⟩ := hscan
      <;> exact .of_eq rfl rfl rfl

theorem execFrem_recordsKept (h : execFrem s = .next t) : RecordsKept s t := by
  obtain ⟨r, -, ⟨-, rfl⟩ | ⟨-, ⟨-, rfl⟩ | ⟨k, -, hscan⟩⟩⟩ := execFrem_next h
  · exact .refl _
  · exact .of_eq rfl rfl rfl
  · obtain ⟨-, -, rfl⟩ | ⟨-, -, rfl⟩ | ⟨-, -, rfl⟩ | ⟨-, -, rfl⟩ | ⟨-, rfl⟩ := hscan <;> exact .of_eq rfl rfl rfl

theorem execFclr_recordsKept (h : execFclr s = .next t) : RecordsKept s t := by
  obtain ⟨r, -, ⟨-, rfl⟩ | ⟨-, -, k, -, ⟨-, rfl⟩ | ⟨-, rfl⟩⟩⟩ := execFclr_next h <;> exact .of_eq rfl rfl rfl

theorem execFcnt_recordsKept (h : execFcnt s = .next t) : RecordsKept s t := by
  obtain ⟨r, -, ⟨-, rfl⟩ | ⟨-, -, k, -, c, -, ⟨-, rfl⟩ | ⟨-, rfl⟩⟩⟩ := execFcnt_next h <;> exact .of_eq rfl rfl rfl

theorem exec_recordsKept {i : Instr} (h : exec i s = .next t) : RecordsKept s t := by
  cases i with
  | enc ext rtr dlc => exact execEnc_recordsKept h
  | dec => exact execDec_recordsKept h
  | tx ext rtr dlc => exact execTx_recordsKept h
  | rx => exact execRx_recordsKept h
  | fadd hasMask => exact execFadd_recordsKept h
  | frem => exact execFrem_recordsKept h
  | fclr => exact execFclr_recordsKept h
  | fcnt => exact execFcnt_recordsKept h

/-! ### A turn of each agent -/

theorem seqTurn_recordsKept (h : seqTurn s = .next t) : RecordsKept s t := by
  obtain ⟨-, rfl⟩ | ⟨r, i, -, -, hexec⟩ := seqTurn_next h
  · exact .refl _
  · exact exec_recordsKept hexec

theorem hostWriteCmd_recordsKept (s : State) (w : Word) : RecordsKept s (s.hostWriteCmd w) := by
  unfold State.hostWriteCmd
  split
  · exact recordsKept_refuse s
  · split
    · exact .of_eq rfl rfl rfl
    · exact recordsKept_refuse s

theorem rxArrive_recordsKept (s : State) (w : FrameWords) : RecordsKept s (s.rxArrive w) := by
  unfold State.rxArrive
  split <;> exact .of_eq rfl rfl rfl

/-- A completion of a Busy mailbox puts its words on the bus (R124). -/
theorem txDone_buslog_of_busy {m : Fin Config.numMailboxes} (h : s.txrq m = true) :
    (s.txDone m).buslog = s.buslog ++ [(s.mailbox m).frameWords] := by
  simp [State.txDone, h]

/-- A Free mailbox has no completion (log 3). -/
theorem txDone_of_free {m : Fin Config.numMailboxes} (h : s.txrq m = false) : s.txDone m = s := by
  simp [State.txDone, h]

@[simp] theorem txDone_faults (s : State) (m : Fin Config.numMailboxes) : (s.txDone m).faults = s.faults := by
  unfold State.txDone
  split <;> rfl

@[simp] theorem txDone_refused (s : State) (m : Fin Config.numMailboxes) : (s.txDone m).refused = s.refused := by
  unfold State.txDone
  split <;> rfl

/-- Every turn but TxEngine's, a reset among them, keeps the records. -/
theorem runEvent_recordsKept {e : Event} (he : ∀ m, e ≠ .txDone m) (h : runEvent e s = .next t) : RecordsKept s t := by
  cases e with
  | seq => exact seqTurn_recordsKept h
  | hostWriteArg j v => cases h; exact .of_eq rfl rfl rfl
  | hostWriteCmd w => cases h; exact hostWriteCmd_recordsKept s w
  | hostWriteTme m v => cases h; exact .refl _
  | hostRead r => cases h; exact .of_eq rfl rfl rfl
  | txDone m => exact absurd rfl (he m)
  | rxArrive w => cases h; exact rxArrive_recordsKept s w
  | reset => cases h; exact .of_eq rfl rfl rfl

/-! ### A step -/

/-- A step that is not TxEngine's turn keeps the records. -/
theorem step_recordsKept (hn : ∀ m, s.nextTurn ≠ .txDone m) (h : step s = .next t) : RecordsKept s t := by
  obtain ⟨hfaults, hrefused, hbuslog⟩ := runEvent_recordsKept hn h
  exact ⟨by simpa using hfaults, by simpa using hrefused, by simpa using hbuslog⟩

/-- A step that is TxEngine's turn. -/
theorem step_txDone {m : Fin Config.numMailboxes} (hn : s.nextTurn = .txDone m) :
    step s = .next (s.takeTurn.txDone m) := by
  simp [step, hn, runEvent]

/-- Settles O50: only TxEngine's turn can touch BUSLOG, and it appends the words of the mailbox it completes. -/
theorem recordsOnlyGrow : Obligations.RecordsOnlyGrow := by
  refine ⟨⟨rfl, rfl, rfl⟩, fun s t h => ?_⟩
  by_cases hn : ∃ m, s.nextTurn = .txDone m
  · obtain ⟨m, hm⟩ := hn
    obtain rfl : s.takeTurn.txDone m = t := by simpa [step_txDone hm] using h
    refine ⟨by simp, by simp, ?_⟩
    cases hq : s.txrq m with
    | false => simp [txDone_of_free, hm, hq]
    | true =>
      have hlog : (s.takeTurn.txDone m).buslog = s.buslog ++ [(s.mailbox m).frameWords] := by
        simp [txDone_buslog_of_busy, hq]
      exact ⟨.inr ⟨m, hm, hq, hlog⟩, fun _ _ _ => by simp [hlog]⟩
  · rw [not_exists] at hn
    obtain ⟨hfaults, hrefused, hbuslog⟩ := step_recordsKept hn h
    exact ⟨hfaults, hrefused, .inl hbuslog, fun m hm => absurd hm (hn m)⟩

end Sys2Proof.Machine

/-!
The mailbox file under a step (R22, R24, R52): no command but TX touches it, and each of the mailbox writes, TX's five and
the one of TxEngine's completion, leaves TDTR_X as it is.
-/

namespace Sys2Proof.Machine

variable {s t u : State}

/-! ### The commands that touch no mailbox -/

theorem execEnc_txmb {ext rtr : Bool} {dlc : Nat} (h : execEnc ext rtr dlc s = .next t) : t.txmb = s.txmb := by
  obtain ⟨r, -, ⟨-, rfl⟩ | ⟨-, -, ⟨-, rfl⟩ | ⟨-, rfl⟩⟩⟩ := execEnc_next h <;> rfl

theorem execDec_txmb (h : execDec s = .next t) : t.txmb = s.txmb := by
  obtain ⟨r, -, ⟨-, rfl⟩ | ⟨-, -, ⟨f, -, rfl⟩ | ⟨-, rfl⟩⟩⟩ := execDec_next h <;> rfl

theorem execRx_txmb (h : execRx s = .next t) : t.txmb = s.txmb := by
  obtain ⟨r, -, ⟨-, rfl⟩ | ⟨-, ⟨-, -, rfl⟩ | ⟨-, -, rfl⟩ | ⟨e, q, -, -, -, rfl⟩ | ⟨e, q, f, -, -, -, rfl⟩ | ⟨-, rfl⟩⟩⟩ :=
    execRx_next h <;> rfl

theorem execFadd_txmb {hasMask : Bool} (h : execFadd hasMask s = .next t) : t.txmb = s.txmb := by
  obtain ⟨r, -, ⟨-, rfl⟩ | ⟨-, ⟨j, -, -, rfl⟩ | ⟨-, -, rfl⟩ | ⟨k, -, hscan⟩⟩⟩ := execFadd_next h
  · rfl
  · rfl
  · rfl
  · obtain ⟨-, -, -, rfl⟩ | ⟨-, -, -, rfl⟩ | ⟨-, -, rfl⟩ | ⟨-, rfl⟩ | ⟨-, rfl⟩ | ⟨-, rfl⟩ | ⟨-, rfl⟩ | ⟨-, rfl⟩ := hscan
      <;> rfl

theorem execFrem_txmb (h : execFrem s = .next t) : t.txmb = s.txmb := by
  obtain ⟨r, -, ⟨-, rfl⟩ | ⟨-, ⟨-, rfl⟩ | ⟨k, -, hscan⟩⟩⟩ := execFrem_next h
  · rfl
  · rfl
  · obtain ⟨-, -, rfl⟩ | ⟨-, -, rfl⟩ | ⟨-, -, rfl⟩ | ⟨-, -, rfl⟩ | ⟨-, rfl⟩ := hscan <;> rfl

theorem execFclr_txmb (h : execFclr s = .next t) : t.txmb = s.txmb := by
  obtain ⟨r, -, ⟨-, rfl⟩ | ⟨-, -, k, -, ⟨-, rfl⟩ | ⟨-, rfl⟩⟩⟩ := execFclr_next h <;> rfl

theorem execFcnt_txmb (h : execFcnt s = .next t) : t.txmb = s.txmb := by
  obtain ⟨r, -, ⟨-, rfl⟩ | ⟨-, -, k, -, c, -, ⟨-, rfl⟩ | ⟨-, rfl⟩⟩⟩ := execFcnt_next h <;> rfl

/-- Only TX changes a mailbox. -/
theorem exec_txmb_of_ne_tx {i : Instr} (hi : i.op ≠ .tx) (h : exec i s = .next t) : t.txmb = s.txmb := by
  cases i with
  | enc ext rtr dlc => exact execEnc_txmb h
  | dec => exact execDec_txmb h
  | tx ext rtr dlc => exact absurd rfl hi
  | rx => exact execRx_txmb h
  | fadd hasMask => exact execFadd_txmb h
  | frem => exact execFrem_txmb h
  | fclr => exact execFclr_txmb h
  | fcnt => exact execFcnt_txmb h

/-! ### The host and RxEngine touch no mailbox -/

@[simp] theorem hostWriteCmd_txmb (s : State) (w : Word) : (s.hostWriteCmd w).txmb = s.txmb := by
  unfold State.hostWriteCmd
  split
  · rfl
  · split <;> rfl

@[simp] theorem rxArrive_txmb (s : State) (w : FrameWords) : (s.rxArrive w).txmb = s.txmb := by
  unfold State.rxArrive
  split <;> rfl

/-! ### TDTR_X is kept -/

@[simp] theorem Mailbox.tdtrX_withTxrq (b : Mailbox) (v : Bool) : (b.withTxrq v).tdtrX = b.tdtrX := rfl

/-- From `s` to `t` the field TDTR_X of every mailbox stands still (R24). -/
def TdtrXKept (s t : State) : Prop :=
  ∀ m, (t.mailbox m).tdtrX = (s.mailbox m).tdtrX

/-- No TDTR_X changes where no mailbox does. -/
theorem TdtrXKept.of_txmb_eq (h : t.txmb = s.txmb) : TdtrXKept s t :=
  fun m => congrArg Mailbox.tdtrX (State.mailbox_congr s t h m)

/-- What keeps TDTR_X keeps it also where more than the mailboxes changes. -/
theorem TdtrXKept.congr (h : TdtrXKept s u) (ht : t.txmb = u.txmb) : TdtrXKept s t :=
  fun m => (TdtrXKept.of_txmb_eq ht m).trans (h m)

/-- A mailbox write that keeps TDTR_X of its own mailbox keeps every mailbox's. -/
theorem tdtrXKept_updMailbox (s : State) (m : Fin Config.numMailboxes) {f : Mailbox → Mailbox}
    (hf : (f (s.mailbox m)).tdtrX = (s.mailbox m).tdtrX) : TdtrXKept s (s.updMailbox m f) := by
  intro j
  rw [State.mailbox_updMailbox]
  split
  case isTrue hj => exact hj ▸ hf
  case isFalse => rfl

section writes
variable (s : State) (m : Fin Config.numMailboxes)

theorem tdtrXKept_writeTir (v : Word) : TdtrXKept s (s.writeTir m v) := tdtrXKept_updMailbox s m rfl

theorem tdtrXKept_writeDlc (v : BitVec 4) : TdtrXKept s (s.writeDlc m v) :=
  tdtrXKept_updMailbox s m (Mailbox.tdtrX_withDlc _ v)

theorem tdtrXKept_writeTdlr (v : Word) : TdtrXKept s (s.writeTdlr m v) := tdtrXKept_updMailbox s m rfl

theorem tdtrXKept_writeTdhr (v : Word) : TdtrXKept s (s.writeTdhr m v) := tdtrXKept_updMailbox s m rfl

theorem tdtrXKept_writeTxrq (v : Bool) : TdtrXKept s (s.writeTxrq m v) :=
  tdtrXKept_updMailbox s m (Mailbox.tdtrX_withTxrq _ v)

end writes

/-- TX writes TIR, DLC, TDLR, TDHR and TXRQ, one in a micro-step (R121), and DLC is all it writes of TDTR. -/
theorem execTx_tdtrXKept {ext rtr : Bool} {dlc : Nat} (h : execTx ext rtr dlc s = .next t) : TdtrXKept s t := by
  obtain ⟨r, -, ⟨-, rfl⟩ | ⟨-, ⟨-, -, rfl⟩ | ⟨-, -, rfl⟩ | ⟨m, -, hscan⟩⟩⟩ := execTx_next h
  · exact .of_txmb_eq rfl
  · exact .of_txmb_eq rfl
  · exact .of_txmb_eq rfl
  · obtain ⟨-, -, -, rfl⟩ | ⟨-, -, -, rfl⟩ | ⟨-, -, rfl⟩ | ⟨-, rfl⟩ | ⟨-, rfl⟩ | ⟨-, rfl⟩ | ⟨-, rfl⟩ | ⟨-, rfl⟩ := hscan
    · exact .of_txmb_eq rfl
    · exact .of_txmb_eq rfl
    · exact .of_txmb_eq rfl
    · exact (tdtrXKept_writeTir s m _).congr rfl
    · exact (tdtrXKept_writeDlc s m _).congr rfl
    · exact (tdtrXKept_writeTdlr s m _).congr rfl
    · exact (tdtrXKept_writeTdhr s m _).congr rfl
    · exact (tdtrXKept_writeTxrq s m _).congr rfl

theorem exec_tdtrXKept {i : Instr} (h : exec i s = .next t) : TdtrXKept s t := by
  by_cases hi : i.op = .tx
  · cases i with
    | tx ext rtr dlc => exact execTx_tdtrXKept h
    | _ => cases hi
  · exact .of_txmb_eq (exec_txmb_of_ne_tx hi h)

theorem seqTurn_tdtrXKept (h : seqTurn s = .next t) : TdtrXKept s t := by
  obtain ⟨-, rfl⟩ | ⟨r, i, -, -, hexec⟩ := seqTurn_next h
  · exact .of_txmb_eq rfl
  · exact exec_tdtrXKept hexec

/-- A completion writes TXRQ alone (R124). -/
theorem txDone_tdtrXKept (s : State) (m : Fin Config.numMailboxes) : TdtrXKept s (s.txDone m) := by
  unfold State.txDone
  split
  · exact (tdtrXKept_writeTxrq s m false).congr rfl
  · exact .of_txmb_eq rfl

/-- Every turn but a reset keeps TDTR_X. -/
theorem runEvent_tdtrXKept {e : Event} (he : e ≠ .reset) (h : runEvent e s = .next t) : TdtrXKept s t := by
  cases e with
  | seq => exact seqTurn_tdtrXKept h
  | hostWriteArg j v => cases h; exact .of_txmb_eq rfl
  | hostWriteCmd w => cases h; exact .of_txmb_eq (hostWriteCmd_txmb s w)
  | hostWriteTme m v => cases h; exact .of_txmb_eq rfl
  | hostRead r => cases h; exact .of_txmb_eq rfl
  | txDone m => cases h; exact txDone_tdtrXKept s m
  | rxArrive w => cases h; exact .of_txmb_eq (rxArrive_txmb s w)
  | reset => exact absurd rfl he

theorem step_tdtrXKept (hn : s.nextTurn ≠ .reset) (h : step s = .next t) : TdtrXKept s t := by
  intro m
  rw [← s.takeTurn_mailbox]
  exact runEvent_tdtrXKept hn h m

/-- Settles O53: the two field writes by the laws of DLC and TXRQ, the steps by `TdtrXKept`. -/
theorem fieldWritesLeaveOtherFields : Obligations.FieldWritesLeaveOtherFields :=
  ⟨fun b v => ⟨b.dlc_withDlc v, b.tdtrX_withDlc v, rfl⟩,
    fun b v => ⟨b.txrq_withTxrq v, b.idwField_withTxrq v, rfl⟩,
    fun _ _ m hn h => step_tdtrXKept hn h m⟩

end Sys2Proof.Machine

/-!
The command word (R77, R82): its fields as digits of the number, the words that are legal for an opcode, and the
decoder, which answers exactly on those. A word is legal for at most one opcode, and exactly when it matches that opcode's
row of the table.
-/

namespace Sys2Proof

variable {w : Word} {i : Instr}

/-! ### The fields as digits -/

theorem cmdOpc_eq_digit (w : Word) : cmdOpc w = w.toNat % 16 := by simp [cmdOpc]

theorem cmdReservedLow_eq_digit (w : Word) : cmdReservedLow w = w.toNat / 64 % 4 := by
  simp [cmdReservedLow, Nat.shiftRight_eq_div_pow]

theorem cmdD_eq_digit (w : Word) : cmdD w = w.toNat / 256 % 16 := by simp [cmdD, Nat.shiftRight_eq_div_pow]

theorem cmdReservedHigh_eq_digit (w : Word) : cmdReservedHigh w = w.toNat / 8192 := by
  simp only [cmdReservedHigh, BitVec.extractLsb'_toNat, Nat.shiftRight_eq_div_pow]
  omega

theorem cmdX_toNat (w : Word) : (cmdX w).toNat = w.toNat / 16 % 2 := Nat.toNat_testBit w.toNat 4

theorem cmdR_toNat (w : Word) : (cmdR w).toNat = w.toNat / 32 % 2 := Nat.toNat_testBit w.toNat 5

theorem cmdM_toNat (w : Word) : (cmdM w).toNat = w.toNat / 4096 % 2 := Nat.toNat_testBit w.toNat 12

theorem cmdX_eq_false_iff : cmdX w = false ↔ w.toNat / 16 % 2 = 0 := by rw [← cmdX_toNat, Bool.toNat_eq_zero]

theorem cmdR_eq_false_iff : cmdR w = false ↔ w.toNat / 32 % 2 = 0 := by rw [← cmdR_toNat, Bool.toNat_eq_zero]

theorem cmdM_eq_false_iff : cmdM w = false ↔ w.toNat / 4096 % 2 = 0 := by rw [← cmdM_toNat, Bool.toNat_eq_zero]

/-- The seven fields of R77 are the whole word. -/
theorem cmdWord_ext_iff {v w : Word} : v = w ↔
    cmdOpc v = cmdOpc w ∧ cmdX v = cmdX w ∧ cmdR v = cmdR w ∧ cmdReservedLow v = cmdReservedLow w ∧
    cmdD v = cmdD w ∧ cmdM v = cmdM w ∧ cmdReservedHigh v = cmdReservedHigh w := by
  refine ⟨by rintro rfl; simp, fun ⟨hopc, hx, hr, hlow, hd, hm, hhigh⟩ => BitVec.eq_of_toNat_eq ?_⟩
  replace hx := congrArg Bool.toNat hx
  replace hr := congrArg Bool.toNat hr
  replace hm := congrArg Bool.toNat hm
  simp only [cmdOpc_eq_digit, cmdX_toNat, cmdR_toNat, cmdReservedLow_eq_digit, cmdD_eq_digit, cmdM_toNat,
    cmdReservedHigh_eq_digit] at hopc hx hr hlow hd hm hhigh
  omega

/-! ### The words that are legal for an opcode -/

/-- R82: the word has the opcode of `op`, its reserved fields are 0, and so are the fields that `op` does not use. -/
structure LegalFor (op : Op) (w : Word) : Prop where
  opc : cmdOpc w = op.code
  reservedLow : cmdReservedLow w = 0
  reservedHigh : cmdReservedHigh w = 0
  frameFields : op ≠ .enc → op ≠ .tx → cmdX w = false ∧ cmdR w = false ∧ cmdD w = 0
  maskField : op ≠ .fadd → cmdM w = false

theorem legalFor_iff {op : Op} : LegalFor op w ↔
    cmdOpc w = op.code ∧ cmdReservedLow w = 0 ∧ cmdReservedHigh w = 0 ∧
    (op ≠ .enc → op ≠ .tx → cmdX w = false ∧ cmdR w = false ∧ cmdD w = 0) ∧ (op ≠ .fadd → cmdM w = false) :=
  ⟨fun ⟨hopc, hlow, hhigh, hframe, hmask⟩ => ⟨hopc, hlow, hhigh, hframe, hmask⟩,
    fun ⟨hopc, hlow, hhigh, hframe, hmask⟩ => ⟨hopc, hlow, hhigh, hframe, hmask⟩⟩

/-- The command of opcode `op` with the fields of `w` (R77). -/
def commandOf (op : Op) (w : Word) : Instr :=
  match op with
  | .enc => .enc (cmdX w) (cmdR w) (cmdD w)
  | .dec => .dec
  | .tx => .tx (cmdX w) (cmdR w) (cmdD w)
  | .rx => .rx
  | .fadd => .fadd (cmdM w)
  | .frem => .frem
  | .fclr => .fclr
  | .fcnt => .fcnt

@[simp] theorem op_commandOf (op : Op) (w : Word) : (commandOf op w).op = op := by cases op <;> rfl

theorem Op.code_injective : Function.Injective Op.code :=
  Function.LeftInverse.injective (g := fun n => Op.ofNat (n - 1)) fun op => by cases op <;> rfl

theorem Op.code_bounds (op : Op) : 1 ≤ op.code ∧ op.code ≤ 8 := by cases op <;> decide

/-- Every opcode of R81 is some command's. -/
theorem Op.exists_code_eq {n : Nat} (h1 : 1 ≤ n) (h8 : n ≤ 8) : ∃ op : Op, n = op.code :=
  ⟨Op.ofNat (n - 1), by interval_cases n <;> rfl⟩

/-! ### The decoder -/

theorem decodeFrameCommand_eq_ok_iff {c : Bool → Bool → Nat → Instr} :
    decodeFrameCommand w c = .ok i ↔ cmdM w = false ∧ i = c (cmdX w) (cmdR w) (cmdD w) := by
  cases hm : cmdM w <;> simp [decodeFrameCommand, hm, eq_comm]

theorem decodeFilterCommand_eq_ok_iff {c : Bool → Instr} :
    decodeFilterCommand w c = .ok i ↔ (cmdX w = false ∧ cmdR w = false ∧ cmdD w = 0) ∧ i = c (cmdM w) := by
  by_cases h : cmdX w = false ∧ cmdR w = false ∧ cmdD w = 0
  · simp [decodeFilterCommand, h, eq_comm]
  · have hset : (cmdX w || cmdR w || cmdD w != 0) = true := by simpa [or_iff_not_imp_left] using h
    simp [decodeFilterCommand, h, hset]

theorem decodePlainCommand_eq_ok_iff {c : Instr} :
    decodePlainCommand w c = .ok i ↔
      (cmdX w = false ∧ cmdR w = false ∧ cmdD w = 0) ∧ cmdM w = false ∧ i = c := by
  by_cases h : (cmdX w = false ∧ cmdR w = false ∧ cmdD w = 0) ∧ cmdM w = false
  · simp [decodePlainCommand, h, eq_comm]
  · have hset : (cmdX w || cmdR w || cmdD w != 0 || cmdM w) = true := by simpa [or_iff_not_imp_left] using h
    simp only [decodePlainCommand, hset, if_true, reduceCtorEq, false_iff]
    tauto

/-- The branch of the decoder that an opcode of R81 takes once the reserved fields are seen to be 0. -/
def decodeAs (op : Op) (w : Word) : Except Reject Instr :=
  match op with
  | .enc => decodeFrameCommand w .enc
  | .dec => decodePlainCommand w .dec
  | .tx => decodeFrameCommand w .tx
  | .rx => decodePlainCommand w .rx
  | .fadd => decodeFilterCommand w .fadd
  | .frem => decodePlainCommand w .frem
  | .fclr => decodePlainCommand w .fclr
  | .fcnt => decodePlainCommand w .fcnt

theorem decode_eq_decodeAs {op : Op} (hopc : cmdOpc w = op.code) (hlow : cmdReservedLow w = 0)
    (hhigh : cmdReservedHigh w = 0) : decode w = decodeAs op w := by
  cases op <;> simp [decode, decodeAs, hopc, hlow, hhigh, Op.code]

/-- A decoded word has an opcode of R81, and its reserved fields are 0 (R82). -/
theorem opcode_and_reserved_of_decode (h : decode w = .ok i) :
    (∃ op : Op, cmdOpc w = op.code) ∧ cmdReservedLow w = 0 ∧ cmdReservedHigh w = 0 := by
  unfold decode at h
  split at h
  · cases h
  split at h
  · cases h
  rename_i hopc hreserved
  exact ⟨Op.exists_code_eq (by omega) (by omega), by omega, by omega⟩

theorem decodeAs_eq_ok_iff {op : Op} :
    decodeAs op w = .ok i ↔
      ((op ≠ .enc → op ≠ .tx → cmdX w = false ∧ cmdR w = false ∧ cmdD w = 0) ∧ (op ≠ .fadd → cmdM w = false)) ∧
      i = commandOf op w := by
  cases op <;>
    simp [decodeAs, commandOf, decodeFrameCommand_eq_ok_iff, decodeFilterCommand_eq_ok_iff,
      decodePlainCommand_eq_ok_iff, and_assoc]

/-- What the decoder answers, said once: the command of an opcode that the word is legal for. -/
theorem decode_eq_ok_iff : decode w = .ok i ↔ ∃ op, LegalFor op w ∧ i = commandOf op w := by
  constructor
  · intro h
    obtain ⟨⟨op, hopc⟩, hlow, hhigh⟩ := opcode_and_reserved_of_decode h
    rw [decode_eq_decodeAs hopc hlow hhigh] at h
    obtain ⟨⟨hframe, hmask⟩, hi⟩ := decodeAs_eq_ok_iff.1 h
    exact ⟨op, ⟨hopc, hlow, hhigh, hframe, hmask⟩, hi⟩
  · rintro ⟨op, hw, hi⟩
    rw [decode_eq_decodeAs hw.opc hw.reservedLow hw.reservedHigh]
    exact decodeAs_eq_ok_iff.2 ⟨⟨hw.frameFields, hw.maskField⟩, hi⟩

theorem legalFor_op_of_decode (h : decode w = .ok i) : LegalFor i.op w := by
  obtain ⟨op, hw, rfl⟩ := decode_eq_ok_iff.1 h
  rwa [op_commandOf]

theorem eq_commandOf_of_decode (h : decode w = .ok i) : i = commandOf i.op w := by
  obtain ⟨op, -, rfl⟩ := decode_eq_ok_iff.1 h
  rw [op_commandOf]

theorem exists_decode_iff_legalFor : (∃ i, decode w = .ok i) ↔ ∃ op, LegalFor op w :=
  ⟨fun ⟨i, h⟩ => ⟨i.op, legalFor_op_of_decode h⟩, fun ⟨op, h⟩ => ⟨commandOf op w, decode_eq_ok_iff.2 ⟨op, h, rfl⟩⟩⟩

/-- No word is legal for two opcodes. -/
theorem LegalFor.op_unique {a b : Op} (ha : LegalFor a w) (hb : LegalFor b w) : a = b :=
  Op.code_injective (ha.opc.symm.trans hb.opc)

/-- Legality for some opcode, in the digits of the word's number (R77, R82). -/
theorem exists_legalFor_iff_digits :
    (∃ op, LegalFor op w) ↔
      (1 ≤ w.toNat % 16 ∧ w.toNat % 16 ≤ 8) ∧ w.toNat / 64 % 4 = 0 ∧ w.toNat / 8192 = 0 ∧
      (w.toNat % 16 = 1 ∨ w.toNat % 16 = 3 → w.toNat / 4096 % 2 = 0) ∧
      (w.toNat % 16 = 5 → w.toNat / 16 % 2 = 0 ∧ w.toNat / 32 % 2 = 0 ∧ w.toNat / 256 % 16 = 0) ∧
      (w.toNat % 16 ≠ 1 → w.toNat % 16 ≠ 3 → w.toNat % 16 ≠ 5 →
        w.toNat / 16 % 2 = 0 ∧ w.toNat / 32 % 2 = 0 ∧ w.toNat / 256 % 16 = 0 ∧ w.toNat / 4096 % 2 = 0) := by
  rw [← cmdOpc_eq_digit, ← cmdReservedLow_eq_digit, ← cmdReservedHigh_eq_digit, ← cmdD_eq_digit,
    ← cmdX_eq_false_iff, ← cmdR_eq_false_iff, ← cmdM_eq_false_iff]
  constructor
  · rintro ⟨op, hopc, hlow, hhigh, hframe, hmask⟩
    refine ⟨hopc ▸ op.code_bounds, hlow, hhigh, ?_⟩
    cases op <;> simp_all [Op.code]
  · rintro ⟨⟨h1, h8⟩, hlow, hhigh, hused⟩
    obtain ⟨op, hopc⟩ := Op.exists_code_eq h1 h8
    refine ⟨op, legalFor_iff.2 ⟨hopc, hlow, hhigh, ?_⟩⟩
    cases op <;> simp_all [Op.code]

/-! ### The rows of the opcode table -/

/-- A masked word field by field: each field is masked by the mask's own. -/
theorem masked_eq_iff (w mask fixed : Word) : w &&& mask = fixed ↔
    cmdOpc w &&& cmdOpc mask = cmdOpc fixed ∧ (cmdX w && cmdX mask) = cmdX fixed ∧
    (cmdR w && cmdR mask) = cmdR fixed ∧ cmdReservedLow w &&& cmdReservedLow mask = cmdReservedLow fixed ∧
    cmdD w &&& cmdD mask = cmdD fixed ∧ (cmdM w && cmdM mask) = cmdM fixed ∧
    cmdReservedHigh w &&& cmdReservedHigh mask = cmdReservedHigh fixed := by
  rw [cmdWord_ext_iff]
  simp only [cmdOpc, cmdX, cmdR, cmdReservedLow, cmdD, cmdM, cmdReservedHigh, BitVec.extractLsb'_and,
    BitVec.getLsbD_and, BitVec.toNat_and]

/-- Whether the row's mask covers X, R and D: its command does not use them (R82). -/
def OpcodeRow.frameFieldsCovered (row : OpcodeRow) : Bool := row.op != .enc && row.op != .tx

/-- How a row is written: its mask covers the opcode, the reserved fields and the fields that its command does not use;
the fixed bits are the opcode and zeros (R82). -/
structure OpcodeRow.Covers (row : OpcodeRow) : Prop where
  opc : cmdOpc row.mask = 15
  x : cmdX row.mask = row.frameFieldsCovered
  r : cmdR row.mask = row.frameFieldsCovered
  reservedLow : cmdReservedLow row.mask = 3
  d : cmdD row.mask = if row.frameFieldsCovered then 15 else 0
  m : cmdM row.mask = (row.op != .fadd)
  reservedHigh : cmdReservedHigh row.mask = 2 ^ 19 - 1
  fixed : row.fixed = BitVec.ofNat 32 row.op.code

theorem covers_of_mem {row : OpcodeRow} (hrow : row ∈ opcodeTable) : row.Covers := by
  simp only [opcodeTable, List.mem_cons, List.not_mem_nil, or_false] at hrow
  rcases hrow with rfl | rfl | rfl | rfl | rfl | rfl | rfl | rfl <;> constructor <;> decide

/-- The fields of a word that holds nothing but an opcode. -/
theorem fields_opcodeWord (op : Op) :
    cmdOpc (BitVec.ofNat 32 op.code) = op.code ∧ cmdX (BitVec.ofNat 32 op.code) = false ∧
    cmdR (BitVec.ofNat 32 op.code) = false ∧ cmdReservedLow (BitVec.ofNat 32 op.code) = 0 ∧
    cmdD (BitVec.ofNat 32 op.code) = 0 ∧ cmdM (BitVec.ofNat 32 op.code) = false ∧
    cmdReservedHigh (BitVec.ofNat 32 op.code) = 0 := by cases op <;> decide

theorem matchesWord_iff_legalFor {row : OpcodeRow} (hrow : row ∈ opcodeTable) :
    row.matchesWord w = true ↔ LegalFor row.op w := by
  obtain ⟨hopc, hx, hr, hlow, hd, hm, hhigh, hfixed⟩ := covers_of_mem hrow
  have opc_and : cmdOpc w &&& 15 = cmdOpc w := Nat.and_two_pow_sub_one_of_lt_two_pow (n := 4) (BitVec.isLt _)
  have low_and : cmdReservedLow w &&& 3 = cmdReservedLow w :=
    Nat.and_two_pow_sub_one_of_lt_two_pow (n := 2) (BitVec.isLt _)
  have d_and : cmdD w &&& 15 = cmdD w := Nat.and_two_pow_sub_one_of_lt_two_pow (n := 4) (BitVec.isLt _)
  have high_and : cmdReservedHigh w &&& (2 ^ 19 - 1) = cmdReservedHigh w :=
    Nat.and_two_pow_sub_one_of_lt_two_pow (BitVec.isLt _)
  rw [OpcodeRow.matchesWord, beq_iff_eq, masked_eq_iff, legalFor_iff, hfixed, hopc, hx, hr, hlow, hd, hm, hhigh]
  simp only [fields_opcodeWord, opc_and, low_and, high_and]
  cases hop : row.op <;> simp [OpcodeRow.frameFieldsCovered, hop, d_and] <;> tauto

/-- Every opcode has its row. -/
theorem exists_row (op : Op) : ∃ row ∈ opcodeTable, row.op = op := by cases op <;> decide

theorem exists_row_matches_iff : (∃ row ∈ opcodeTable, row.matchesWord w = true) ↔ ∃ op, LegalFor op w := by
  constructor
  · rintro ⟨row, hrow, hw⟩
    exact ⟨row.op, (matchesWord_iff_legalFor hrow).1 hw⟩
  · rintro ⟨op, hw⟩
    obtain ⟨row, hrow, rfl⟩ := exists_row op
    exact ⟨row, hrow, (matchesWord_iff_legalFor hrow).2 hw⟩

namespace Machine

/-- A word that is no command, written to CMD while SEQ is Idle, is refused (R204). -/
theorem hostWriteCmd_of_illegal {s : State} (hs : s.seq = .idle) (hw : ¬ ∃ i, decode w = .ok i) :
    s.hostWriteCmd w = s.refuse := by
  cases hd : decode w with
  | ok i => exact absurd ⟨i, hd⟩ hw
  | error e => simp [State.hostWriteCmd, hs, hd]

end Machine

/-- Settles O4: a word is legal for the opcode of a command, for the digits of R82, and for a row of the table alike. -/
theorem legalWordsAreTheTableRows : Obligations.LegalWordsAreTheTableRows := by
  intro w
  refine ⟨?_, ?_, ?_, ?_⟩
  · exact exists_decode_iff_legalFor.trans exists_legalFor_iff_digits
  · exact exists_decode_iff_legalFor.trans exists_row_matches_iff.symm
  · intro i hi row hrow hw
    exact ((matchesWord_iff_legalFor hrow).1 hw).op_unique (legalFor_op_of_decode hi)
  · intro hw s hs
    exact congrArg _ (Machine.hostWriteCmd_of_illegal hs hw)

end Sys2Proof

/-!
Data bytes in data words (R53, R75): byte `i` of a pair of words is byte `i % 4` of one of them, and packing and
unpacking go byte by byte.
-/

namespace Sys2Proof.Machine

/-- Byte `i` of the pair `DH ++ DL` (R75). -/
theorem extractLsb'_append_byte (dh dl : Word) {i : Nat} (hi : i < 8) :
    (dh ++ dl : BitVec 64).extractLsb' (8 * i) 8 = (if i < 4 then dl else dh).extractLsb' (8 * (i % 4)) 8 := by
  by_cases h4 : i < 4
  · rw [if_pos h4, Nat.mod_eq_of_lt h4]
    exact BitVec.extractLsb'_append_eq_of_add_le (by omega)
  · rw [if_neg h4, show 8 * (i % 4) = 8 * i - 32 by omega]
    exact BitVec.extractLsb'_append_eq_of_le (by omega)

@[simp] theorem length_unpackBytes (dh dl : Word) (n : Nat) : (unpackBytes dh dl n).length = n := by
  simp [unpackBytes]

theorem getElem?_unpackBytes (dh dl : Word) {i n : Nat} (hn : i < n) (h8 : i < 8) :
    (unpackBytes dh dl n)[i]? = some ((if i < 4 then dl else dh).extractLsb' (8 * (i % 4)) 8) := by
  simp [unpackBytes, hn, extractLsb'_append_byte dh dl h8]

/-- The bytes unpacked depend on nothing but the bytes themselves. -/
theorem unpackBytes_congr {dh dl dh' dl' : Word} {n : Nat} (hn : n ≤ 8)
    (h : ∀ i < n, (if i < 4 then dl else dh).extractLsb' (8 * (i % 4)) 8 =
      (if i < 4 then dl' else dh').extractLsb' (8 * (i % 4)) 8) :
    unpackBytes dh dl n = unpackBytes dh' dl' n := by
  refine List.map_congr_left fun i hi => ?_
  have hi : i < n := List.mem_range.1 hi
  rw [extractLsb'_append_byte dh dl (by omega), extractLsb'_append_byte dh' dl' (by omega), h i hi]

/-- Above its last byte, a word is what stands before that byte. -/
theorem extractLsb'_append_byte_succ {n : Nat} (x : BitVec n) (y : Byte) (j : Nat) :
    (x ++ y).extractLsb' (8 * (j + 1)) 8 = x.extractLsb' (8 * j) 8 :=
  BitVec.extractLsb'_append_eq_of_le (by omega)

/-- Byte `j` of a packed word is the data byte packed there. -/
theorem extractLsb'_packWord (data : List Byte) (base : Nat) {j : Nat} (hj : j < 4) :
    (packWord data base).extractLsb' (8 * j) 8 = dataByte data (base + j) := by
  unfold packWord
  match j with
  | 0 => exact BitVec.extractLsb'_append_eq_right
  | 1 => exact (extractLsb'_append_byte_succ _ _ 0).trans BitVec.extractLsb'_append_eq_right
  | 2 =>
    rw [extractLsb'_append_byte_succ _ _ 1, extractLsb'_append_byte_succ _ _ 0]
    exact BitVec.extractLsb'_append_eq_right
  | 3 =>
    rw [extractLsb'_append_byte_succ _ _ 2, extractLsb'_append_byte_succ _ _ 1, extractLsb'_append_byte_succ _ _ 0]
    exact BitVec.extractLsb'_eq_self

/-- Byte `i` of a frame's packed data words is its data byte `i` (R75). -/
theorem extractLsb'_packed_byte (data : List Byte) {i : Nat} (hi : i < 8) :
    (if i < 4 then packLow data else packHigh data).extractLsb' (8 * (i % 4)) 8 = dataByte data i := by
  have hj : i % 4 < 4 := Nat.mod_lt i (by decide)
  split
  · rw [packLow, extractLsb'_packWord data 0 hj, show 0 + i % 4 = i by omega]
  · rw [packHigh, extractLsb'_packWord data 4 hj, show 4 + i % 4 = i by omega]

theorem dataByte_of_length_le {data : List Byte} {i : Nat} (h : data.length ≤ i) : dataByte data i = 0 :=
  List.getD_eq_default data 0 h

theorem dataLength_le {rtr : Bool} {dlc : Nat} : dataLength rtr dlc ≤ dlc := by
  cases rtr <;> simp [dataLength]

/-- Decode reads the ID word, the DLC word and the bytes below the data length (R75, R103). -/
theorem decodeFrame_congr {v w : FrameWords} (hid : v.idw = w.idw) (hdlw : v.dlw = w.dlw)
    (h : dlwDlc w.dlw ≤ maxDlc → unpackBytes v.dh v.dl (dataLength (idwRtr w.idw) (dlwDlc w.dlw)) =
      unpackBytes w.dh w.dl (dataLength (idwRtr w.idw) (dlwDlc w.dlw))) :
    decodeFrame v = decodeFrame w := by
  unfold decodeFrame
  rw [hid, hdlw]
  split
  · rfl
  · rw [h (by omega)]

/-- Settles O11: encode and decode go byte by byte, by the lemmas on packed and unpacked bytes. -/
theorem encodedDataWordLayout : Obligations.EncodedDataWordLayout := by
  refine ⟨fun f _ => ⟨rfl, rfl, fun i hlen hi => ?_⟩,
    fun v w hid hdlw hbytes => decodeFrame_congr hid hdlw fun hdlc => ?_⟩
  · exact (extractLsb'_packed_byte f.data hi).trans (dataByte_of_length_le hlen)
  · have hlen : dataLength (idwRtr w.idw) (dlwDlc w.dlw) ≤ 8 := dataLength_le.trans hdlc
    exact unpackBytes_congr hlen fun i hi => hbytes i hi (by omega)

end Sys2Proof.Machine

/-!
The operands of a command (R86): the frame of ENC and TX carries as many bytes as a well-formed one, so only its
identifier and its DLC can be out of range.
-/

namespace Sys2Proof.Machine

/-- The three points of R101. -/
theorem wellFormedFrame_iff {f : LogicalFrame} :
    wellFormedFrame f = true ↔ f.id < idBound f.ext ∧ f.dlc ≤ maxDlc ∧ f.data.length = dataLength f.rtr f.dlc := by
  simp [wellFormedFrame, and_assoc]

theorem length_data_frameOperand (ext rtr : Bool) (dlc : Nat) (a : Args) :
    (frameOperand ext rtr dlc a).data.length = min (dataLength rtr dlc) 8 := length_unpackBytes _ _ _

theorem getElem?_data_frameOperand {ext rtr : Bool} {dlc : Nat} {a : Args} {i : Nat}
    (hi : i < (frameOperand ext rtr dlc a).data.length) :
    (frameOperand ext rtr dlc a).data[i]? = some ((if i < 4 then a.arg1 else a.arg2).extractLsb' (8 * (i % 4)) 8) := by
  rw [length_data_frameOperand] at hi
  exact getElem?_unpackBytes a.arg2 a.arg1 hi (by omega)

theorem wellFormedFrame_frameOperand_iff {ext rtr : Bool} {dlc : Nat} {a : Args} :
    wellFormedFrame (frameOperand ext rtr dlc a) = true ↔ a.arg0.toNat < idBound ext ∧ dlc ≤ maxDlc := by
  rw [wellFormedFrame_iff, length_data_frameOperand]
  refine and_congr_right fun _ => and_iff_left_of_imp fun hdlc => ?_
  exact min_eq_left (dataLength_le.trans hdlc)

/-- The fields X, R and D of an ENC or TX word are the operands of its command (R77). -/
theorem fields_of_decode_frameCommand {w : Word} {ext rtr : Bool} {dlc : Nat}
    (h : decode w = .ok (.enc ext rtr dlc) ∨ decode w = .ok (.tx ext rtr dlc)) :
    ext = cmdX w ∧ rtr = cmdR w ∧ dlc = cmdD w := by
  obtain h | h := h
  · simpa [commandOf, Instr.op] using eq_commandOf_of_decode h
  · simpa [commandOf, Instr.op] using eq_commandOf_of_decode h

/-- The field M of a FADD word is the operand of its command (R77). -/
theorem field_of_decode_fadd {w : Word} {hasMask : Bool} (h : decode w = .ok (.fadd hasMask)) : hasMask = cmdM w := by
  simpa [commandOf, Instr.op] using eq_commandOf_of_decode h

/-- Settles O6: the frame by its length, its bytes and its well-formedness, the word's fields by the decoder's law. -/
theorem frameOperandFromArguments : Obligations.FrameOperandFromArguments := by
  intro ext rtr dlc a
  refine ⟨rfl, rfl, rfl, rfl, length_data_frameOperand ext rtr dlc a, fun i hi => getElem?_data_frameOperand hi,
    wellFormedFrame_frameOperand_iff, fun w hw => fields_of_decode_frameCommand hw, fun w hasMask hw => ?_, rfl⟩
  rw [field_of_decode_fadd hw]
  rfl

end Sys2Proof.Machine

/-!
The ID word (R71, R72): its parts do not overlap, so it is their sum, and each field reads back as a digit of it.
-/

namespace Sys2Proof.Machine

variable {f : LogicalFrame}

/-- The identifier moved up to its place, with no bit lost. -/
theorem toNat_ofNat_shiftLeft {n k : Nat} (h : n * 2 ^ k < 2 ^ 32) : (BitVec.ofNat 32 n <<< k).toNat = n <<< k := by
  have hn : n < 2 ^ 32 := (Nat.le_mul_of_pos_right n (Nat.two_pow_pos k)).trans_lt h
  rw [BitVec.toNat_shiftLeft, BitVec.toNat_ofNat, Nat.mod_eq_of_lt hn, Nat.shiftLeft_eq, Nat.mod_eq_of_lt h]

theorem toNat_bitWord_shiftLeft_one (b : Bool) : (bitWord b <<< 1).toNat = 2 * b.toNat := by cases b <;> rfl

/-- IDE and RTR of an extended ID word, whose bit 0 is 0 (R72). -/
theorem four_or_bit_one (b : Bool) : 4 ||| 2 * b.toNat = 4 + 2 * b.toNat := by cases b <;> rfl

/-- A standard ID word as a number (R71). -/
theorem toNat_encodeId_standard (hext : f.ext = false) (hid : f.id < 2 ^ 11) :
    (encodeId f).toNat = f.id * 2 ^ 21 + 2 * f.rtr.toNat := by
  have hrtr : f.rtr.toNat < 2 := Bool.toNat_lt f.rtr
  have hlow : 2 * f.rtr.toNat < 2 ^ 21 := by omega
  rw [encodeId, hext, if_neg Bool.false_ne_true, BitVec.toNat_or, toNat_ofNat_shiftLeft (by omega),
    toNat_bitWord_shiftLeft_one, ← Nat.shiftLeft_add_eq_or_of_lt hlow, Nat.shiftLeft_eq]

/-- An extended ID word as a number (R72). -/
theorem toNat_encodeId_extended (hext : f.ext = true) (hid : f.id < 2 ^ 29) :
    (encodeId f).toNat = f.id * 2 ^ 3 + 4 + 2 * f.rtr.toNat := by
  have hrtr : f.rtr.toNat < 2 := Bool.toNat_lt f.rtr
  have hlow : 4 + 2 * f.rtr.toNat < 2 ^ 3 := by omega
  have hide : ((1 : Word) <<< 2).toNat = 4 := rfl
  rw [encodeId, hext, if_pos rfl, BitVec.toNat_or, BitVec.toNat_or, toNat_ofNat_shiftLeft (by omega), hide,
    toNat_bitWord_shiftLeft_one, Nat.or_assoc, four_or_bit_one, ← Nat.shiftLeft_add_eq_or_of_lt hlow,
    Nat.shiftLeft_eq, Nat.add_assoc]

/-- The three low bits of an ID word, from the number they make (R71, R72). -/
theorem lowBits_of_toNat {w : Word} {n : Nat} {ide rtr : Bool}
    (h : w.toNat = n * 2 ^ 3 + 4 * ide.toNat + 2 * rtr.toNat) :
    w.getLsbD 2 = ide ∧ w.getLsbD 1 = rtr ∧ w.getLsbD 0 = false := by
  simp only [BitVec.getLsbD, Nat.testBit_eq_decide_div_mod_eq, h]
  cases ide <;> cases rtr <;> simp <;> omega

/-- The fields of a standard ID word (R71). -/
theorem fields_encodeId_standard (hext : f.ext = false) (hid : f.id < 2 ^ 11) :
    (encodeId f).extractLsb' 3 18 = 0 ∧ ((encodeId f).extractLsb' 21 11).toNat = f.id := by
  have hrtr : f.rtr.toNat < 2 := Bool.toNat_lt f.rtr
  have hword := toNat_encodeId_standard hext hid
  have hpad : ((encodeId f).extractLsb' 3 18).toNat = 0 := by
    rw [BitVec.extractLsb'_toNat, Nat.shiftRight_eq_div_pow, hword]
    omega
  have hidField : ((encodeId f).extractLsb' 21 11).toNat = f.id := by
    rw [BitVec.extractLsb'_toNat, Nat.shiftRight_eq_div_pow, hword]
    omega
  exact ⟨BitVec.eq_of_toNat_eq hpad, hidField⟩

/-- The identifier field of an extended ID word (R72). -/
theorem id_encodeId_extended (hext : f.ext = true) (hid : f.id < 2 ^ 29) :
    ((encodeId f).extractLsb' 3 29).toNat = f.id := by
  have hrtr : f.rtr.toNat < 2 := Bool.toNat_lt f.rtr
  rw [BitVec.extractLsb'_toNat, Nat.shiftRight_eq_div_pow, toNat_encodeId_extended hext hid]
  omega

/-- IDE, RTR and bit 0 of an encoded ID word of either format. -/
theorem lowBits_encodeId (hid : f.id < idBound f.ext) :
    (encodeId f).getLsbD 2 = f.ext ∧ (encodeId f).getLsbD 1 = f.rtr ∧ (encodeId f).getLsbD 0 = false := by
  cases hext : f.ext with
  | false =>
    rw [hext] at hid
    apply lowBits_of_toNat (n := f.id * 2 ^ 18)
    rw [toNat_encodeId_standard hext hid, Bool.toNat_false]
    omega
  | true =>
    rw [hext] at hid
    exact lowBits_of_toNat (toNat_encodeId_extended hext hid)

/-- Settles O10: the word as a number for each format, the fields as digits of it. -/
theorem encodedIdWordLayout : Obligations.EncodedIdWordLayout := by
  intro f hwf
  obtain ⟨hid, -, -⟩ := wellFormedFrame_iff.1 hwf
  refine ⟨fun hext => ?_, fun hext => ?_, lowBits_encodeId hid⟩
  · rw [hext] at hid
    exact ⟨toNat_encodeId_standard hext hid, fields_encodeId_standard hext hid⟩
  · rw [hext] at hid
    exact ⟨toNat_encodeId_extended hext hid, id_encodeId_extended hext hid⟩

end Sys2Proof.Machine

/-!
The frames decoded (R103): the fields of the words as digits of their numbers, the one frame that decode can give, and
its well-formedness.
-/

namespace Sys2Proof.Machine

variable {w : FrameWords} {f : LogicalFrame}

/-! ### The three points of a well-formed frame -/

theorem length_eq_dataLength_iff {n dlc : Nat} {rtr : Bool} :
    n = dataLength rtr dlc ↔ (rtr = true → n = 0) ∧ (rtr = false → n = dlc) := by
  cases rtr <;> simp [dataLength]

/-- Settles O5: the data length is that of the frame's own kind, remote or not. -/
theorem wellFormedFrameBounds : Obligations.WellFormedFrameBounds := by
  intro f
  rw [wellFormedFrame_iff, length_eq_dataLength_iff, idBound]

/-! ### The frame of four words -/

theorem dlwDlc_eq_digit (dlw : Word) : dlwDlc dlw = dlw.toNat % 16 := by simp [dlwDlc]

/-- The identifier is all of the ID word above its place (R73). -/
theorem idwId_eq_digits (idw : Word) :
    idwId idw = if idwIde idw then idw.toNat / 2 ^ 3 else idw.toNat / 2 ^ 21 := by
  have hlt : idw.toNat < 2 ^ 32 := idw.isLt
  simp only [idwId, BitVec.extractLsb'_toNat, Nat.shiftRight_eq_div_pow]
  split <;> omega

/-- The identifier of an ID word fits the word's own format (R101 point 1). -/
theorem idwId_lt_idBound (idw : Word) : idwId idw < idBound (idwIde idw) := by
  unfold idwId idBound
  split <;> exact BitVec.isLt _

/-- The frame of the words' fields, whatever their DLC (R103). -/
def decodedFrame (w : FrameWords) : LogicalFrame where
  id := idwId w.idw
  ext := idwIde w.idw
  rtr := idwRtr w.idw
  dlc := dlwDlc w.dlw
  data := unpackBytes w.dh w.dl (dataLength (idwRtr w.idw) (dlwDlc w.dlw))

theorem length_data_decodedFrame (w : FrameWords) :
    (decodedFrame w).data.length = dataLength (idwRtr w.idw) (dlwDlc w.dlw) := length_unpackBytes _ _ _

theorem decodeFrame_eq_none_iff : decodeFrame w = none ↔ maxDlc < dlwDlc w.dlw := by simp [decodeFrame]

theorem decodeFrame_eq_some_iff : decodeFrame w = some f ↔ dlwDlc w.dlw ≤ maxDlc ∧ decodedFrame w = f := by
  simp [decodeFrame, decodedFrame]

theorem wellFormedFrame_decodedFrame (h : dlwDlc w.dlw ≤ maxDlc) : wellFormedFrame (decodedFrame w) = true :=
  wellFormedFrame_iff.2 ⟨idwId_lt_idBound w.idw, h, length_data_decodedFrame w⟩

/-- A frame that decode gives is well formed (R103). -/
theorem wellFormedFrame_of_decodeFrame (h : decodeFrame w = some f) : wellFormedFrame f = true := by
  obtain ⟨hdlc, rfl⟩ := decodeFrame_eq_some_iff.1 h
  exact wellFormedFrame_decodedFrame hdlc

/-- Byte `i` of a decoded frame is byte `i` of the data words (R75). -/
theorem getElem?_data_decodedFrame (hdlc : dlwDlc w.dlw ≤ maxDlc) {i : Nat} (hi : i < (decodedFrame w).data.length) :
    (decodedFrame w).data[i]? = some ((if i < 4 then w.dl else w.dh).extractLsb' (8 * (i % 4)) 8) := by
  rw [length_data_decodedFrame] at hi
  exact getElem?_unpackBytes w.dh w.dl hi (hi.trans_le (dataLength_le.trans hdlc))

/-- Settles O8: the frame of the words' fields, each field a digit of its word. -/
theorem decodedFrameFields : Obligations.DecodedFrameFields := by
  intro w
  rw [← dlwDlc_eq_digit]
  refine ⟨decodeFrame_eq_none_iff.2, fun hdlc => ?_⟩
  exact ⟨decodedFrame w, decodeFrame_eq_some_iff.2 ⟨hdlc, rfl⟩, wellFormedFrame_decodedFrame hdlc, rfl, rfl, rfl,
    idwId_eq_digits w.idw, length_data_decodedFrame w, fun i hi => getElem?_data_decodedFrame hdlc hi⟩

end Sys2Proof.Machine

/-!
ENC and DEC (R106, R107): each is one micro-step, which gives the response OK with its results or raises its fault.
-/

namespace Sys2Proof

/-- The fields X, R and D lie outside the mask of the rows of ENC and TX, and the opcode inside it (R82). -/
theorem packCmd_and_frameMask (op : Op) (x r : Bool) (d : Nat) :
    packCmd op x r d false &&& 0xFFFFF0CF = BitVec.ofNat 32 op.code := by
  have hopc : BitVec.ofNat 32 op.code &&& 0xFFFFF0CF = BitVec.ofNat 32 op.code := by cases op <;> rfl
  have hx : bitWord x <<< 4 &&& 0xFFFFF0CF = 0#32 := by cases x <;> rfl
  have hr : bitWord r <<< 5 &&& 0xFFFFF0CF = 0#32 := by cases r <;> rfl
  have hd : ∀ d : BitVec 4, d.setWidth 32 <<< 8 &&& (0xFFFFF0CF : Word) = 0#32 := by decide
  have hm : bitWord false <<< 12 &&& 0xFFFFF0CF = 0#32 := rfl
  simp only [packCmd, BitVec.and_or_distrib_right, hopc, hx, hr, hd, hm, BitVec.or_zero]

end Sys2Proof

namespace Sys2Proof.Machine

variable {s : State} {r : Run} {ext rtr : Bool} {dlc : Nat} {f : LogicalFrame}

/-! ### The two ends of a command -/

theorem responded_respondResults (s : State) (res : Results) : Responded s (s.respondResults res) .ok := by
  simp [Responded]

theorem respondResults_frame (s : State) (res : Results) :
    s.respondResults res =
      { s with seq := .idle, rsp := (s.respondResults res).rsp, res := (s.respondResults res).res } := rfl

theorem faulted_raiseFault (s : State) (r : Run) (rec : FaultRecord) : Faulted s (s.raiseFault r rec) r rec :=
  ⟨fun _ => mem_insertFault, rfl⟩

/-! ### ENC -/

/-- A frame operand is ill formed by its identifier or its DLC alone (R106). -/
theorem wellFormedFrame_frameOperand_eq_false_iff {a : Args} :
    wellFormedFrame (frameOperand ext rtr dlc a) = false ↔
      (ext = false ∧ 0x800 ≤ a.arg0) ∨ (ext = true ∧ 0x20000000 ≤ a.arg0) ∨ 8 < dlc := by
  rw [← Bool.not_eq_true, wellFormedFrame_frameOperand_iff, BitVec.le_def, BitVec.le_def]
  cases ext <;> simp [idBound, maxDlc] <;> omega

/-- A remote frame and a frame of DLC 0 carry no data (R86). -/
theorem data_frameOperand_eq_nil {a : Args} (h : rtr = true ∨ dlc = 0) : (frameOperand ext rtr dlc a).data = [] := by
  have hlen : dataLength rtr dlc = 0 := by
    obtain rfl | rfl := h
    · rfl
    · exact Nat.le_zero.1 dataLength_le
  rw [← List.length_eq_zero_iff, length_data_frameOperand, hlen, Nat.zero_min]

theorem exec_enc_of_wellFormed (hs : s.atStep r 0) (hwf : wellFormedFrame (frameOperand ext rtr dlc r.arg) = true) :
    exec (.enc ext rtr dlc) s =
      .next (s.respondResults (encodedResults (encodeFrame (frameOperand ext rtr dlc r.arg)))) := by
  obtain ⟨hseq, hrun, hupc⟩ := hs
  exact (microStep_run hseq hrun _).trans (by simp [hupc, hwf])

theorem exec_enc_of_illFormed (hs : s.atStep r 0) (hwf : wellFormedFrame (frameOperand ext rtr dlc r.arg) = false) :
    exec (.enc ext rtr dlc) s = .next (s.raiseFault r (preconditionRecord .enc r)) := by
  obtain ⟨hseq, hrun, hupc⟩ := hs
  exact (microStep_run hseq hrun _).trans (by simp [hupc, hwf])

/-- Settles O14: the bounds of the operand's well-formedness, and the micro-step of each of its two cases. -/
theorem encRespondsOrFaults : Obligations.EncRespondsOrFaults := by
  refine ⟨fun ext rtr dlc _ => packCmd_and_frameMask .enc ext rtr dlc, fun s r ext rtr dlc hs => ?_⟩
  refine ⟨wellFormedFrame_frameOperand_eq_false_iff, fun hwf => ?_, fun hwf => ?_⟩
  · refine ⟨_, exec_enc_of_wellFormed hs hwf, responded_respondResults _ _, rfl, fun hnone => ?_,
      respondResults_frame _ _⟩
    simp only [State.respondResults_res, encodedResults, encodeFrame, data_frameOperand_eq_nil hnone]
    exact ⟨rfl, rfl⟩
  · exact ⟨_, exec_enc_of_illFormed hs hwf, faulted_raiseFault _ _ _⟩

/-! ### DEC -/

theorem exec_dec_of_some (hs : s.atStep r 0) (hf : decodeFrame (wordsOperand r.arg) = some f) :
    exec .dec s = .next (s.respondResults (decodedResults f)) := by
  obtain ⟨hseq, hrun, hupc⟩ := hs
  exact (microStep_run hseq hrun _).trans (by simp [hupc, hf])

theorem exec_dec_of_none (hs : s.atStep r 0) (hnone : decodeFrame (wordsOperand r.arg) = none) :
    exec .dec s = .next (s.raiseFault r (.decodeDlcOutOfRange .dec (wordsOperand r.arg))) := by
  obtain ⟨hseq, hrun, hupc⟩ := hs
  exact (microStep_run hseq hrun _).trans (by simp [hupc, hnone])

/-- The identifier of a well-formed frame fits RES0 whole (R79). -/
theorem toNat_res0_decodedResults (hwf : wellFormedFrame f = true) : (decodedResults f).res0.toNat = f.id := by
  obtain ⟨hid, -, -⟩ := wellFormedFrame_iff.1 hwf
  have hbound : idBound f.ext ≤ 2 ^ 32 := by cases f.ext <;> decide
  exact (BitVec.toNat_ofNat f.id 32).trans (Nat.mod_eq_of_lt (hid.trans_le hbound))

/-- The frame descriptor as a number: its fields do not overlap (R79). -/
theorem toNat_frameDescriptor (hdlc : f.dlc ≤ maxDlc) :
    (frameDescriptor f).toNat = 16 * f.ext.toNat + 32 * f.rtr.toNat + 256 * f.dlc := by
  have hflags : (bitWord f.ext <<< 4 ||| bitWord f.rtr <<< 5).toNat = 16 * f.ext.toNat + 32 * f.rtr.toNat := by
    cases f.ext <;> cases f.rtr <;> rfl
  have hext : f.ext.toNat < 2 := Bool.toNat_lt f.ext
  have hrtr : f.rtr.toNat < 2 := Bool.toNat_lt f.rtr
  have hlow : 16 * f.ext.toNat + 32 * f.rtr.toNat < 2 ^ 8 := by omega
  have hfits : f.dlc * 2 ^ 8 < 2 ^ 32 := (Nat.mul_le_mul_right _ hdlc).trans_lt (by decide)
  rw [frameDescriptor, BitVec.toNat_or, hflags, toNat_ofNat_shiftLeft hfits, Nat.or_comm,
    ← Nat.shiftLeft_add_eq_or_of_lt hlow, Nat.shiftLeft_eq]
  omega

/-- Settles O15: the DLC field says which case it is, and a decoded frame is well formed, so its fields fit the result
registers. -/
theorem decRespondsOrFaults : Obligations.DecRespondsOrFaults := by
  refine ⟨rfl, fun s r hs => ⟨?_, fun f hf => ?_, fun hnone => ?_⟩⟩
  · rw [decodeFrame_eq_none_iff, dlwDlc_eq_digit]
  · have hwf := wellFormedFrame_of_decodeFrame hf
    obtain ⟨-, hdlc, -⟩ := wellFormedFrame_iff.1 hwf
    exact ⟨_, exec_dec_of_some hs hf, responded_respondResults _ _, toNat_res0_decodedResults hwf,
      toNat_frameDescriptor hdlc, rfl, rfl, respondResults_frame _ _⟩
  · exact ⟨_, exec_dec_of_none hs hnone, faulted_raiseFault _ _ _⟩

end Sys2Proof.Machine

/-!
TX (R121): one equation for each of its micro-steps, what it does to the mailbox file, and what follows for a TX that
responds RETRY_LATER (R122).
-/

namespace Sys2Proof.Machine

variable {s t : State} {r : Run} {ext rtr : Bool} {dlc : Nat} {m : Fin Config.numMailboxes}

/-! ### The two ends of a scan's micro-step -/

theorem scanOn_of_lt {n upc : Nat} (done : State) (h : r.k < n - 1) :
    scanOn s r n upc done = .next (s.continueAt { r with k := r.k + 1, upc := upc }) := if_pos h

theorem scanOn_of_not_lt {n upc : Nat} (done : State) (h : ¬ r.k < n - 1) : scanOn s r n upc done = .next done :=
  if_neg h

/-! ### A mailbox write and a response -/

/-- A mailbox reads what its one write made of it, whatever else changed. -/
theorem mailbox_of_txmb_eq_upd {b : Mailbox} (h : t.txmb = (s.updMailbox m fun _ => b).txmb) : t.mailbox m = b :=
  (State.mailbox_congr _ t h m).trans (s.mailbox_updMailbox_self m _)

/-- A mailbox write leaves every other mailbox as it was. -/
theorem onlyMailbox_of_txmb_eq_upd {b : Mailbox} (h : t.txmb = (s.updMailbox m fun _ => b).txmb) :
    OnlyMailbox s t m :=
  fun j hj => (State.mailbox_congr _ t h j).trans ((s.mailbox_updMailbox m j _).trans (if_neg hj.symm))

/-- A response that is no ERROR gives its status and clears PEND and ECODE (R80). -/
theorem responded_respond (s : State) {st : Status} (hst : st ≠ .error) : Responded s (s.respond st) st := by
  simp [Responded, hst]

/-! ### The micro-steps as equations -/

theorem exec_tx_of_wellFormed (hs : s.atStep r 0) (hwf : wellFormedFrame (frameOperand ext rtr dlc r.arg) = true) :
    exec (.tx ext rtr dlc) s = .next (s.continueAt
      { r with upc := 1, k := 0, snap := { r.snap with w := encodeFrame (frameOperand ext rtr dlc r.arg) } }) := by
  obtain ⟨hseq, hrun, hupc⟩ := hs
  exact (microStep_run hseq hrun _).trans (by simp [hupc, hwf])

theorem exec_tx_of_illFormed (hs : s.atStep r 0) (hwf : wellFormedFrame (frameOperand ext rtr dlc r.arg) = false) :
    exec (.tx ext rtr dlc) s = .next (s.raiseFault r (preconditionRecord .tx r)) := by
  obtain ⟨hseq, hrun, hupc⟩ := hs
  exact (microStep_run hseq hrun _).trans (by simp [hupc, hwf])

section atMailbox
variable (hm : m.val = r.k)
include hm

theorem exec_tx_scan_of_free (hs : s.atStep r 1) (hfree : s.txrq m = false) :
    exec (.tx ext rtr dlc) s = .next (s.continueAt { r with upc := 2 }) := by
  obtain ⟨hseq, hrun, hupc⟩ := hs
  exact (microStep_run hseq hrun _).trans (by simp [hupc, withIndex_val m hm.symm, hfree])

theorem exec_tx_scan_of_busy (hs : s.atStep r 1) (hbusy : s.txrq m = true) :
    exec (.tx ext rtr dlc) s = scanOn s r Config.numMailboxes 1 (s.respond .retryLater) := by
  obtain ⟨hseq, hrun, hupc⟩ := hs
  exact (microStep_run hseq hrun _).trans (by simp [hupc, withIndex_val m hm.symm, hbusy])

theorem exec_tx_writeTir (hs : s.atStep r 2) :
    exec (.tx ext rtr dlc) s = .next ((s.writeTir m r.snap.w.idw).continueAt { r with upc := 3 }) := by
  obtain ⟨hseq, hrun, hupc⟩ := hs
  exact (microStep_run hseq hrun _).trans (by simp [hupc, withIndex_val m hm.symm])

theorem exec_tx_writeDlc (hs : s.atStep r 3) :
    exec (.tx ext rtr dlc) s =
      .next ((s.writeDlc m (r.snap.w.dlw.extractLsb' 0 4)).continueAt { r with upc := 4 }) := by
  obtain ⟨hseq, hrun, hupc⟩ := hs
  exact (microStep_run hseq hrun _).trans (by simp [hupc, withIndex_val m hm.symm])

theorem exec_tx_writeTdlr (hs : s.atStep r 4) :
    exec (.tx ext rtr dlc) s = .next ((s.writeTdlr m r.snap.w.dl).continueAt { r with upc := 5 }) := by
  obtain ⟨hseq, hrun, hupc⟩ := hs
  exact (microStep_run hseq hrun _).trans (by simp [hupc, withIndex_val m hm.symm])

theorem exec_tx_writeTdhr (hs : s.atStep r 5) :
    exec (.tx ext rtr dlc) s = .next ((s.writeTdhr m r.snap.w.dh).continueAt { r with upc := 6 }) := by
  obtain ⟨hseq, hrun, hupc⟩ := hs
  exact (microStep_run hseq hrun _).trans (by simp [hupc, withIndex_val m hm.symm])

theorem exec_tx_writeTxrq (hs : s.atStep r 6) :
    exec (.tx ext rtr dlc) s = .next ((s.writeTxrq m true).respond .ok) := by
  obtain ⟨hseq, hrun, hupc⟩ := hs
  exact (microStep_run hseq hrun _).trans (by simp [hupc, withIndex_val m hm.symm])

end atMailbox

/-- Settles O16: each micro-step's equation, and the frame of its one write. -/
theorem txMicroSteps : Obligations.TxMicroSteps := by
  refine ⟨fun ext rtr dlc _ => packCmd_and_frameMask .tx ext rtr dlc, fun s r ext rtr dlc => ?_⟩
  refine ⟨exec_tx_of_wellFormed, fun hs hwf => ⟨_, exec_tx_of_illFormed hs hwf, faulted_raiseFault _ _ _⟩,
    fun m hm => ⟨exec_tx_scan_of_free hm, fun hs hbusy hk => ?_, fun hs hbusy hk => ?_, fun hs => ?_, fun hs => ?_,
      fun hs => ?_, fun hs => ?_, fun hs => ?_⟩⟩
  · exact (exec_tx_scan_of_busy hm hs hbusy).trans (scanOn_of_lt _ hk)
  · exact ⟨_, (exec_tx_scan_of_busy hm hs hbusy).trans (scanOn_of_not_lt _ hk.not_lt),
      responded_respond s (by decide), rfl⟩
  · exact ⟨_, exec_tx_writeTir hm hs, mailbox_of_txmb_eq_upd rfl, onlyMailbox_of_txmb_eq_upd rfl, rfl⟩
  · have hself : (s.writeDlc m (r.snap.w.dlw.extractLsb' 0 4)).mailbox m =
        (s.mailbox m).withDlc (r.snap.w.dlw.extractLsb' 0 4) := mailbox_of_txmb_eq_upd rfl
    refine ⟨_, exec_tx_writeDlc hm hs, ?_⟩
    rw [State.continueAt_mailbox, hself]
    exact ⟨Mailbox.dlc_withDlc _ _, Mailbox.tdtrX_withDlc _ _, rfl, onlyMailbox_of_txmb_eq_upd rfl, rfl⟩
  · exact ⟨_, exec_tx_writeTdlr hm hs, mailbox_of_txmb_eq_upd rfl, onlyMailbox_of_txmb_eq_upd rfl, rfl⟩
  · exact ⟨_, exec_tx_writeTdhr hm hs, mailbox_of_txmb_eq_upd rfl, onlyMailbox_of_txmb_eq_upd rfl, rfl⟩
  · have hself : (s.writeTxrq m true).mailbox m = (s.mailbox m).withTxrq true := mailbox_of_txmb_eq_upd rfl
    refine ⟨_, exec_tx_writeTxrq hm hs, responded_respond (s.writeTxrq m true) (by decide), ?_⟩
    rw [State.txrq, State.respond_mailbox, hself]
    exact ⟨Mailbox.txrq_withTxrq _ _, Mailbox.idwField_withTxrq _ _, rfl, onlyMailbox_of_txmb_eq_upd rfl, rfl⟩

/-! ### RETRY_LATER -/

/-- TX changes no mailbox before upc 2, and from there on only the one its scan stopped at (R121). -/
theorem execTx_txmb_eq_or_onlyMailbox (h : execTx ext rtr dlc s = .next t) :
    t.txmb = s.txmb ∨
      ∃ (r : Run) (m : Fin Config.numMailboxes), s.seq = .run r ∧ 2 ≤ r.upc ∧ m.val = r.k ∧ OnlyMailbox s t m := by
  obtain ⟨r, hr, ⟨-, rfl⟩ | ⟨-, ⟨-, -, rfl⟩ | ⟨-, -, rfl⟩ | ⟨m, hm, hscan⟩⟩⟩ := execTx_next h
  · exact .inl rfl
  · exact .inl rfl
  · exact .inl rfl
  · obtain ⟨-, -, -, rfl⟩ | ⟨-, -, -, rfl⟩ | ⟨-, -, rfl⟩ | ⟨hu, rfl⟩ | ⟨hu, rfl⟩ | ⟨hu, rfl⟩ | ⟨hu, rfl⟩ | ⟨hu, rfl⟩ := hscan
    · exact .inl rfl
    · exact .inl rfl
    · exact .inl rfl
    all_goals exact .inr ⟨r, m, hr, by omega, hm, onlyMailbox_of_txmb_eq_upd rfl⟩

/-- TX responds OK at upc 6 alone and RETRY_LATER at upc 1 alone. -/
theorem execTx_idle (h : execTx ext rtr dlc s = .next t) (hidle : t.seq = .idle) :
    ∃ r, s.seq = .run r ∧
      ((r.upc = 1 ∧ t.rsp = rspRespond s.rsp .retryLater) ∨ (r.upc = 6 ∧ t.rsp = rspRespond s.rsp .ok)) := by
  obtain ⟨r, hr, ⟨-, rfl⟩ | ⟨-, ⟨-, -, rfl⟩ | ⟨-, -, rfl⟩ | ⟨m, -, hscan⟩⟩⟩ := execTx_next h
  · simp [hr] at hidle
  · cases hidle
  · cases hidle
  · obtain ⟨-, -, -, rfl⟩ | ⟨hu, -, -, rfl⟩ | ⟨-, -, rfl⟩ | ⟨-, rfl⟩ | ⟨-, rfl⟩ | ⟨-, rfl⟩ | ⟨-, rfl⟩ | ⟨hu, rfl⟩ := hscan
    any_goals cases hidle
    · exact ⟨r, hr, .inl ⟨hu, rfl⟩⟩
    · exact ⟨r, hr, .inr ⟨hu, rfl⟩⟩

/-- The micro-step pointer of TX never falls. -/
theorem execTx_upc_le {r' : Run} (h : execTx ext rtr dlc s = .next t) (hr : s.seq = .run r) (hr' : t.seq = .run r') :
    r.upc ≤ r'.upc := by
  obtain ⟨q, hq, hcase⟩ := execTx_next h
  obtain rfl : q = r := by simpa [hq] using hr
  obtain ⟨-, rfl⟩ | ⟨-, ⟨hu, -, rfl⟩ | ⟨-, -, rfl⟩ | ⟨m, -, hscan⟩⟩ := hcase
  · obtain rfl : q = r' := by simpa [hq] using hr'
    exact le_rfl
  · exact hu ▸ Nat.zero_le _
  · cases hr'
    exact le_rfl
  · obtain ⟨hu, -, -, rfl⟩ | ⟨-, -, -, rfl⟩ | ⟨hu, -, rfl⟩ | ⟨hu, rfl⟩ | ⟨hu, rfl⟩ | ⟨hu, rfl⟩ | ⟨hu, rfl⟩ | ⟨-, rfl⟩ := hscan
      <;> cases hr' <;> simp [hu]

/-- Settles O18: the mailbox file, the response and the micro-step pointer of one micro-step, each by its lemma. -/
theorem txRetryLaterWritesNoMailbox : Obligations.TxRetryLaterWritesNoMailbox := by
  intro s t r ext rtr dlc hr _ h
  refine ⟨fun hupc => ?_, fun hidle hst => ?_, fun r' hr' => execTx_upc_le h hr hr'⟩
  · obtain htxmb | ⟨q, m, hq, hwrite, -, -⟩ := execTx_txmb_eq_or_onlyMailbox h
    · exact htxmb
    · obtain rfl : q = r := by simpa [hq] using hr
      exact absurd hupc (by omega)
  · obtain ⟨q, hq, ⟨hu, -⟩ | ⟨-, hrsp⟩⟩ := execTx_idle h hidle
    · obtain rfl : q = r := by simpa [hq] using hr
      exact hu
    · rw [hrsp, rspSt_rspRespond] at hst
      exact absurd hst (by decide)

end Sys2Proof.Machine

/-!
The request flags (R126): a Busy mailbox stays Busy under every micro-step of a command and every turn but its own
completion and a reset. From upc 2 on TX is at a mailbox that `Inv` says is Free, and it writes no other.
-/

namespace Sys2Proof.Machine

variable {s t : State} {r : Run} {i : Instr} {m : Fin Config.numMailboxes}

/-! ### The invariant of a command in progress -/

theorem State.current_eq_some (h : s.current = some i) : ∃ r, s.seq = .run r ∧ decode r.cmd = .ok i := by
  unfold State.current at h
  split at h
  · cases h
  · rename_i r hr
    split at h
    · rename_i hd
      cases h
      exact ⟨r, hr, hd⟩
    · cases h

/-- Under `Inv` a command in progress is at a position of its program. -/
theorem Inv.inPosition (h : Inv s) (hr : s.seq = .run r) (hd : decode r.cmd = .ok i) : inPosition i r s := by
  have hsound := h.seq
  simp only [State.seqSound, hr, hd] at hsound
  exact hsound.2

/-- `Inv` does not speak of the turns to come. -/
theorem Inv.takeTurn (h : Inv s) : Inv s.takeTurn := by
  rw [State.takeTurn_eq]
  exact ⟨h.rsp, h.seq, h.depth, h.fifo, h.unique, h.selected, h.faultSet⟩

/-! ### A Busy mailbox stays Busy -/

/-- Request flags are read from the mailbox alone. -/
theorem State.txrq_congr (h : t.mailbox m = s.mailbox m) : t.txrq m = s.txrq m := congrArg Mailbox.txrq h

/-- A micro-step of a command leaves a Busy mailbox as it is: TX writes only the mailbox at hand, which is Free. -/
theorem exec_mailbox_of_busy (hinv : Inv s) (hbusy : s.txrq m = true) (hr : s.seq = .run r) (hd : decode r.cmd = .ok i)
    (h : exec i s = .next t) : t.mailbox m = s.mailbox m := by
  by_cases hi : i.op = .tx
  · cases i with
    | tx ext rtr dlc =>
      obtain htxmb | ⟨q, j, hq, hwrite, hj, honly⟩ := execTx_txmb_eq_or_onlyMailbox h
      · exact s.mailbox_congr t htxmb m
      · obtain rfl : q = r := by simpa [hq] using hr
        obtain ⟨-, -, -, -, hposition⟩ := hinv.inPosition hr hd
        have hfree : s.txrq j = false := (hposition j hj).1 hwrite
        exact honly m fun hmj => by simp [hmj, hfree] at hbusy
    | _ => cases hi
  · exact s.mailbox_congr t (exec_txmb_of_ne_tx hi h) m

theorem seqTurn_mailbox_of_busy (hinv : Inv s) (hbusy : s.txrq m = true) (h : seqTurn s = .next t) :
    t.mailbox m = s.mailbox m := by
  obtain ⟨-, rfl⟩ | ⟨r, i, hr, hd, hexec⟩ := seqTurn_next h
  · rfl
  · exact exec_mailbox_of_busy hinv hbusy hr hd hexec

/-- A completion leaves every other mailbox as it was (R124). -/
theorem onlyMailbox_txDone (s : State) (m : Fin Config.numMailboxes) : OnlyMailbox s (s.txDone m) m := by
  unfold State.txDone
  split
  · exact onlyMailbox_of_txmb_eq_upd rfl
  · exact fun _ _ => rfl

/-- No turn but its own completion and a reset changes a Busy mailbox. -/
theorem runEvent_mailbox_of_busy {e : Event} (hinv : Inv s) (hbusy : s.txrq m = true) (hdone : e ≠ .txDone m)
    (hreset : e ≠ .reset) (h : runEvent e s = .next t) : t.mailbox m = s.mailbox m := by
  cases e with
  | seq => exact seqTurn_mailbox_of_busy hinv hbusy h
  | hostWriteArg j v => cases h; rfl
  | hostWriteCmd w => cases h; exact s.mailbox_congr _ (hostWriteCmd_txmb s w) m
  | hostWriteTme j v => cases h; rfl
  | hostRead r => cases h; rfl
  | txDone j => cases h; exact onlyMailbox_txDone s j m fun hmj => hdone (hmj ▸ rfl)
  | rxArrive w => cases h; exact s.mailbox_congr _ (rxArrive_txmb s w) m
  | reset => exact absurd rfl hreset

theorem step_mailbox_of_busy (hinv : Inv s) (hbusy : s.txrq m = true) (hdone : s.nextTurn ≠ .txDone m)
    (hreset : s.nextTurn ≠ .reset) (h : step s = .next t) : t.mailbox m = s.mailbox m :=
  (runEvent_mailbox_of_busy hinv.takeTurn ((s.takeTurn_txrq m).trans hbusy) hdone hreset h).trans
    (s.takeTurn_mailbox m)

/-- Settles O20: a Busy mailbox stands still under every command and every turn but the two. -/
theorem onlyCompletionFreesAMailbox : Obligations.OnlyCompletionFreesAMailbox := by
  refine fun s t m hinv hbusy => ⟨fun i hi h => ?_, fun h hfree => ?_⟩
  · obtain ⟨r, hr, hd⟩ := State.current_eq_some hi
    exact (State.txrq_congr (exec_mailbox_of_busy hinv hbusy hr hd h)).trans hbusy
  · by_contra! hother
    obtain ⟨hdone, hreset⟩ := hother
    have hkept : t.txrq m = true := (State.txrq_congr (step_mailbox_of_busy hinv hbusy hdone hreset h)).trans hbusy
    exact absurd hkept (by simp [hfree])

end Sys2Proof.Machine

/-!
The Filter Bank Manager's commands, micro-step by micro-step (R141, R144, R145, R146): one equation for each micro-step,
and what its one write does to the bank file.
-/

namespace Sys2Proof.Machine

variable {s t : State} {r : Run} {hasMask : Bool} {j k : Fin Config.numBanks}

/-! ### A bank write, and the search for a bank -/

/-- A bank reads what its one write made of it, whatever else changed. -/
theorem bank_of_fb_eq_upd {b : Bank} (h : t.fb = (s.updBank k fun _ => b).fb) : t.bank k = b :=
  (State.bank_congr _ t h k).trans (s.bank_updBank_self k _)

/-- A bank write leaves every other bank as it was. -/
theorem onlyBank_of_fb_eq_upd {b : Bank} (h : t.fb = (s.updBank k fun _ => b).fb) : OnlyBank s t k :=
  fun j hj => (State.bank_congr _ t h j).trans ((s.bank_updBank k j _).trans (if_neg hj.symm))

theorem Bank.holds_iff {fid : Word} {b : Bank} : b.holds fid = true ↔ b.act = true ∧ b.fid = fid := by
  simp [Bank.holds]

theorem Bank.holds_eq_false_iff {fid : Word} {b : Bank} :
    b.holds fid = false ↔ ¬ (b.act = true ∧ b.fid = fid) := by
  rw [← Bank.holds_iff, Bool.not_eq_true]

/-- The search finds a bank exactly when it is the lowest with the property. -/
theorem State.lowestBank_eq_some_iff {p : Bank → Bool} :
    s.lowestBank p = some k ↔ p (s.bank k) = true ∧ ∀ j, j < k → p (s.bank j) = false := by
  refine ⟨State.lowestBank_some, fun ⟨hk, hlow⟩ => ?_⟩
  cases hfound : s.lowestBank p with
  | none => exact absurd hk (by simp [State.lowestBank_none.1 hfound k])
  | some j =>
    obtain ⟨hj, hlowj⟩ := State.lowestBank_some hfound
    obtain hlt | rfl | hlt := lt_trichotomy j k
    · exact absurd hj (by simp [hlow j hlt])
    · rfl
    · exact absurd hk (by simp [hlowj k hlt])

/-- A mask that is not given is all ones (R140). -/
theorem filterMask_filterOperand (a : Args) :
    filterMask (filterOperand hasMask a) = if hasMask then a.arg1 else 0xFFFFFFFF := by cases hasMask <;> rfl

/-! ### The micro-steps as equations -/

theorem exec_fadd_of_duplicate (hs : s.atStep r 0) (hj : s.lowestBank (Bank.holds r.arg.arg0) = some j) :
    exec (.fadd hasMask) s = .next (s.raiseFault r (.duplicateFilter .fadd r.arg.arg0 j)) := by
  obtain ⟨hseq, hrun, hupc⟩ := hs
  exact (microStep_run hseq hrun _).trans (by simp [hupc, filterOperand, hj])

theorem exec_fadd_of_noDuplicate (hs : s.atStep r 0) (hnone : s.lowestBank (Bank.holds r.arg.arg0) = none) :
    exec (.fadd hasMask) s = .next (s.continueAt { r with upc := 1, k := 0 }) := by
  obtain ⟨hseq, hrun, hupc⟩ := hs
  exact (microStep_run hseq hrun _).trans (by simp [hupc, filterOperand, hnone])

theorem exec_frem_start (hs : s.atStep r 0) : exec .frem s = .next (s.continueAt { r with upc := 1, k := 0 }) := by
  obtain ⟨hseq, hrun, hupc⟩ := hs
  exact (microStep_run hseq hrun _).trans (by simp [hupc])

section atBank
variable (hk : k.val = r.k)
include hk

theorem exec_fadd_scan_of_inactive (hs : s.atStep r 1) (hact : (s.bank k).act = false) :
    exec (.fadd hasMask) s = .next (s.continueAt { r with upc := 2 }) := by
  obtain ⟨hseq, hrun, hupc⟩ := hs
  exact (microStep_run hseq hrun _).trans (by simp [hupc, withIndex_val k hk.symm, hact])

theorem exec_fadd_scan_of_active (hs : s.atStep r 1) (hact : (s.bank k).act = true) :
    exec (.fadd hasMask) s = scanOn s r Config.numBanks 1 (s.respond .ok) := by
  obtain ⟨hseq, hrun, hupc⟩ := hs
  exact (microStep_run hseq hrun _).trans (by simp [hupc, withIndex_val k hk.symm, hact])

theorem exec_fadd_writeMsa (hs : s.atStep r 2) :
    exec (.fadd hasMask) s = .next ((s.writeMsa k s.params.modeselA).continueAt { r with upc := 3 }) := by
  obtain ⟨hseq, hrun, hupc⟩ := hs
  exact (microStep_run hseq hrun _).trans (by simp [hupc, withIndex_val k hk.symm])

theorem exec_fadd_writeMsb (hs : s.atStep r 3) :
    exec (.fadd hasMask) s = .next ((s.writeMsb k s.params.modeselB).continueAt { r with upc := 4 }) := by
  obtain ⟨hseq, hrun, hupc⟩ := hs
  exact (microStep_run hseq hrun _).trans (by simp [hupc, withIndex_val k hk.symm])

theorem exec_fadd_writeFid (hs : s.atStep r 4) :
    exec (.fadd hasMask) s = .next ((s.writeFid k r.arg.arg0).continueAt { r with upc := 5 }) := by
  obtain ⟨hseq, hrun, hupc⟩ := hs
  exact (microStep_run hseq hrun _).trans (by simp [hupc, withIndex_val k hk.symm, filterOperand])

theorem exec_fadd_writeFmask (hs : s.atStep r 5) :
    exec (.fadd hasMask) s =
      .next ((s.writeFmask k (if hasMask then r.arg.arg1 else 0xFFFFFFFF)).continueAt { r with upc := 6 }) := by
  obtain ⟨hseq, hrun, hupc⟩ := hs
  exact (microStep_run hseq hrun _).trans (by simp [hupc, withIndex_val k hk.symm, filterMask_filterOperand])

theorem exec_fadd_writeAct (hs : s.atStep r 6) :
    exec (.fadd hasMask) s = .next ((s.writeAct k true).respond .ok) := by
  obtain ⟨hseq, hrun, hupc⟩ := hs
  exact (microStep_run hseq hrun _).trans (by simp [hupc, withIndex_val k hk.symm])

theorem exec_frem_scan_of_active (hs : s.atStep r 1) (hact : (s.bank k).act = true) :
    exec .frem s = .next (s.continueAt { r with upc := 2 }) := by
  obtain ⟨hseq, hrun, hupc⟩ := hs
  exact (microStep_run hseq hrun _).trans (by simp [hupc, withIndex_val k hk.symm, hact])

theorem exec_frem_compare_of_eq (hs : s.atStep r 2) (hfid : (s.bank k).fid = r.arg.arg0) :
    exec .frem s = .next (s.continueAt { r with upc := 3 }) := by
  obtain ⟨hseq, hrun, hupc⟩ := hs
  exact (microStep_run hseq hrun _).trans (by simp [hupc, withIndex_val k hk.symm, filterOperand, hfid])

/-- FREM passes over an inactive bank and over a bank with another identifier. -/
theorem exec_frem_passOver
    (h : (s.atStep r 1 ∧ (s.bank k).act = false) ∨ (s.atStep r 2 ∧ (s.bank k).fid ≠ r.arg.arg0)) :
    exec .frem s = scanOn s r Config.numBanks 1 (s.respond .ok) := by
  obtain ⟨⟨hseq, hrun, hupc⟩, hact⟩ | ⟨⟨hseq, hrun, hupc⟩, hfid⟩ := h
  · exact (microStep_run hseq hrun _).trans (by simp [hupc, withIndex_val k hk.symm, hact])
  · exact (microStep_run hseq hrun _).trans (by simp [hupc, withIndex_val k hk.symm, filterOperand, hfid])

theorem exec_frem_writeAct (hs : s.atStep r 3) : exec .frem s = .next ((s.writeAct k false).respond .ok) := by
  obtain ⟨hseq, hrun, hupc⟩ := hs
  exact (microStep_run hseq hrun _).trans (by simp [hupc, withIndex_val k hk.symm])

theorem exec_fclr (hs : s.atStep r 0) :
    exec .fclr s = scanOn (s.writeAct k false) r Config.numBanks 0 ((s.writeAct k false).respond .ok) := by
  obtain ⟨hseq, hrun, hupc⟩ := hs
  exact (microStep_run hseq hrun _).trans (by simp [hupc, withIndex_val k hk.symm])

theorem exec_fcnt {c : Nat} (hs : s.atStep r 0)
    (hc : c = if (s.bank k).act = true then r.snap.c else r.snap.c + 1) :
    exec .fcnt s = scanOn s { r with snap := { r.snap with c := c } } Config.numBanks 0
      (s.respondResults { s.res with res0 := BitVec.ofNat 32 c }) := by
  obtain ⟨hseq, hrun, hupc⟩ := hs
  exact (microStep_run hseq hrun _).trans (by simp [hupc, withIndex_val k hk.symm, hc])

end atBank

/-- Settles O32: the duplicate search as the lowest such bank, then each micro-step's equation and the frame of its one
write. -/
theorem faddMicroSteps : Obligations.FaddMicroSteps := by
  refine ⟨fun hasMask => by cases hasMask <;> rfl, fun s r hasMask => ?_⟩
  refine ⟨fun j hs hact hfid hlow => ?_, fun hs hno => ?_, fun k hk => ⟨exec_fadd_scan_of_inactive hk,
    fun hs hact hlt => ?_, fun hs hact hlast => ?_, fun hs => ?_, fun hs => ?_, fun hs => ?_, fun hs => ?_, fun hs => ?_⟩⟩
  · have hlowest : ∀ l, l < j → (s.bank l).holds r.arg.arg0 = false := fun l hl =>
      Bank.holds_eq_false_iff.2 (hlow l hl)
    have hj := State.lowestBank_eq_some_iff.2 ⟨Bank.holds_iff.2 ⟨hact, hfid⟩, hlowest⟩
    exact ⟨_, exec_fadd_of_duplicate hs hj, faulted_raiseFault _ _ _⟩
  · exact exec_fadd_of_noDuplicate hs (State.lowestBank_none.2 fun j => Bank.holds_eq_false_iff.2 (hno j))
  · exact (exec_fadd_scan_of_active hk hs hact).trans (scanOn_of_lt _ hlt)
  · exact ⟨_, (exec_fadd_scan_of_active hk hs hact).trans (scanOn_of_not_lt _ hlast.not_lt),
      responded_respond s (by decide), rfl⟩
  · exact ⟨_, exec_fadd_writeMsa hk hs, bank_of_fb_eq_upd rfl, onlyBank_of_fb_eq_upd rfl, rfl⟩
  · exact ⟨_, exec_fadd_writeMsb hk hs, bank_of_fb_eq_upd rfl, onlyBank_of_fb_eq_upd rfl, rfl⟩
  · exact ⟨_, exec_fadd_writeFid hk hs, bank_of_fb_eq_upd rfl, onlyBank_of_fb_eq_upd rfl, rfl⟩
  · exact ⟨_, exec_fadd_writeFmask hk hs, bank_of_fb_eq_upd rfl, onlyBank_of_fb_eq_upd rfl, rfl⟩
  · exact ⟨_, exec_fadd_writeAct hk hs, responded_respond (s.writeAct k true) (by decide), bank_of_fb_eq_upd rfl,
      onlyBank_of_fb_eq_upd rfl, rfl⟩

/-- Settles O37: each micro-step's equation; the two ways to pass over a bank share the end of the scan. -/
theorem fremMicroSteps : Obligations.FremMicroSteps := by
  refine ⟨rfl, fun s r => ⟨exec_frem_start, fun k hk => ⟨exec_frem_scan_of_active hk, exec_frem_compare_of_eq hk,
    fun hpass => ⟨fun hlt => ?_, fun hlast => ?_⟩, fun hs => ?_⟩⟩⟩
  · exact (exec_frem_passOver hk hpass).trans (scanOn_of_lt _ hlt)
  · exact ⟨_, (exec_frem_passOver hk hpass).trans (scanOn_of_not_lt _ hlast.not_lt),
      responded_respond s (by decide), rfl⟩
  · exact ⟨_, exec_frem_writeAct hk hs, responded_respond (s.writeAct k false) (by decide), bank_of_fb_eq_upd rfl,
      onlyBank_of_fb_eq_upd rfl, rfl⟩

end Sys2Proof.Machine

/-!
FCLR and FCNT as whole commands (R145, R146): the state after `n` micro-steps with no other agent's turn, and the last
micro-step's response.
-/

namespace Sys2Proof.Machine

variable {s t u : State} {n : Nat}

/-! ### A run along a known sequence of states -/

/-- While no other agent has a turn, a step is a micro-step of the command in progress. -/
theorem step_of_run {r : Run} {i : Instr} (hs : s.seqOnly) (hr : s.seq = .run r) (hd : decode r.cmd = .ok i) :
    step s = exec i s := (step_seqOnly hs).trans (seqTurn_run hr hd)

/-- A run and one step more. -/
theorem runSteps_snoc (h : runSteps n s = .next t) (hstep : step t = .next u) : runSteps (n + 1) s = .next u := by
  rw [runSteps_add h, runSteps_succ hstep, runSteps_zero]

/-- A run follows a sequence of states that each step to the next. -/
theorem runSteps_sequence {f : Nat → State} (h : ∀ i, i < n → step (f i) = .next (f (i + 1))) :
    runSteps n (f 0) = .next (f n) := by
  induction n with
  | zero => rfl
  | succ n ih => exact runSteps_snoc (ih fun i hi => h i (hi.trans n.lt_succ_self)) (h n n.lt_succ_self)

/-- A response is one to every earlier state with the same reserved field of RSP. -/
theorem Responded.of_rspReserved_eq {st : Status} (h : Responded u t st)
    (hrsp : rspReserved u.rsp = rspReserved s.rsp) : Responded s t st := by
  obtain ⟨hidle, hst, hpend, hecode, hreserved⟩ := h
  exact ⟨hidle, hst, hpend, hecode, hreserved.trans hrsp⟩

/-! ### FCLR -/

/-- FCLR issued in `s` and run for `n` micro-steps: the banks below `n` are inactive. -/
def State.fclrAfter (s : State) (n : Nat) : State :=
  { s.issue (encode .fclr) with
    seq := .run { cmd := encode .fclr, arg := s.arg, k := n }
    fb := Vector.ofFn fun k => if k.val < n then { s.bank k with act := false } else s.bank k }

theorem State.bank_fclrAfter (s : State) (n : Nat) (k : Fin Config.numBanks) :
    (s.fclrAfter n).bank k = if k.val < n then { s.bank k with act := false } else s.bank k := by
  simp [State.bank, State.fclrAfter]

theorem State.fclrAfter_zero (s : State) : s.fclrAfter 0 = s.issue (encode .fclr) := by
  have hfb : (s.fclrAfter 0).fb = s.fb := State.fb_ext _ _ fun k => by simp [State.bank_fclrAfter]
  exact congrArg (fun fb => { s.issue (encode .fclr) with fb := fb }) hfb

/-- Clearing bank `k` as well. -/
theorem State.fb_writeAct_fclrAfter (s : State) (k : Fin Config.numBanks) :
    ((s.fclrAfter k.val).writeAct k false).fb = (s.fclrAfter (k.val + 1)).fb := by
  refine State.fb_ext _ _ fun j => ?_
  rw [State.writeAct_eq, State.bank_updBank]
  obtain rfl | hne := eq_or_ne k j
  · simp [State.bank_fclrAfter]
  · have hiff : j.val < k.val + 1 ↔ j.val < k.val := by omega
    simp [State.bank_fclrAfter, hne, hiff]

theorem decode_encode_fclr : decode (encode .fclr) = .ok .fclr := by decide

/-- FCLR's micro-step at bank `k` of a whole FCLR. -/
theorem step_fclrAfter (hs : s.seqOnly) (k : Fin Config.numBanks) :
    step (s.fclrAfter k.val) =
      scanOn ((s.fclrAfter k.val).writeAct k false) { cmd := encode .fclr, arg := s.arg, k := k.val } Config.numBanks 0
        (((s.fclrAfter k.val).writeAct k false).respond .ok) :=
  (step_of_run (s := s.fclrAfter k.val) hs rfl decode_encode_fclr).trans
    (exec_fclr (r := { cmd := encode .fclr, arg := s.arg, k := k.val }) rfl ⟨rfl, rfl, rfl⟩)

theorem step_fclrAfter_of_lt (hs : s.seqOnly) (hn : n < 27) : step (s.fclrAfter n) = .next (s.fclrAfter (n + 1)) := by
  have hscan := (step_fclrAfter hs ⟨n, hn.trans (by decide)⟩).trans (scanOn_of_lt _ hn)
  have hfb := s.fb_writeAct_fclrAfter ⟨n, hn.trans (by decide)⟩
  exact hscan.trans (congrArg (fun fb => Host.Outcome.next { s.fclrAfter (n + 1) with fb := fb }) hfb)

/-- A whole FCLR with no other agent's turn (R145). -/
theorem runSteps_fclr (hs : s.seqOnly) :
    runSteps 28 (s.issue (encode .fclr)) = .next (((s.fclrAfter 27).writeAct 27 false).respond .ok) := by
  have hrun : runSteps 27 (s.fclrAfter 0) = .next (s.fclrAfter 27) :=
    runSteps_sequence fun _ => step_fclrAfter_of_lt hs
  rw [← s.fclrAfter_zero]
  exact runSteps_snoc hrun ((step_fclrAfter hs 27).trans (scanOn_of_not_lt _ (lt_irrefl 27)))

/-- Settles O40: the micro-step's equation at both ends of the scan, and the bank file after 28 of them. -/
theorem fclrClearsEveryBank : Obligations.FclrClearsEveryBank := by
  refine ⟨rfl, fun s r k hk hs => ?_, fun s hs => ⟨_, runSteps_fclr hs, ?_, fun k => ?_, rfl⟩⟩
  · by_cases hlt : r.k < 27
    · exact ⟨_, (exec_fclr hk hs).trans (scanOn_of_lt _ hlt), bank_of_fb_eq_upd rfl, onlyBank_of_fb_eq_upd rfl,
        fun _ => rfl, fun hlast => absurd hlt hlast.not_lt⟩
    · exact ⟨_, (exec_fclr hk hs).trans (scanOn_of_not_lt _ hlt), bank_of_fb_eq_upd rfl, onlyBank_of_fb_eq_upd rfl,
        fun h => absurd h hlt, fun _ => ⟨responded_respond (s.writeAct k false) (by decide), rfl⟩⟩
  · exact Responded.of_rspReserved_eq (responded_respond ((s.fclrAfter 27).writeAct 27 false) (by decide))
      (rspReserved_rspIssue s.rsp)
  · have hfb : (((s.fclrAfter 27).writeAct 27 false).respond .ok).fb = (s.fclrAfter 28).fb :=
      s.fb_writeAct_fclrAfter 27
    rw [State.bank_congr _ _ hfb, State.bank_fclrAfter, if_pos k.isLt]

/-! ### FCNT -/

/-- How many of the banks below `n` are inactive: the count `c` of FCNT before its micro-step at bank `n` (R146). -/
def State.inactiveBelow (s : State) (n : Nat) : Nat :=
  ((List.finRange Config.numBanks).take n).countP fun k => !(s.bank k).act

theorem State.inactiveBelow_succ (s : State) (k : Fin Config.numBanks) :
    s.inactiveBelow (k.val + 1) =
      if (s.bank k).act = true then s.inactiveBelow k.val else s.inactiveBelow k.val + 1 := by
  have hlen : k.val < (List.finRange Config.numBanks).length := by simp
  rw [State.inactiveBelow, List.take_succ_eq_append_getElem hlen, List.countP_append, List.getElem_finRange]
  cases hact : (s.bank k).act <;> simp [State.inactiveBelow, hact]

theorem State.inactiveBelow_numBanks (s : State) : s.inactiveBelow Config.numBanks = s.inactiveBanks := by
  rw [State.inactiveBelow, List.take_of_length_le (by simp), State.inactiveBanks]

theorem State.inactiveBanks_le (s : State) : s.inactiveBanks ≤ Config.numBanks :=
  List.countP_le_length.trans_eq List.length_finRange

/-- FCNT issued in `s` and run for `n` micro-steps: the inactive banks below `n` are counted. -/
def State.fcntAfter (s : State) (n : Nat) : State :=
  (s.issue (encode .fcnt)).continueAt
    { cmd := encode .fcnt, arg := s.arg, k := n, snap := { c := s.inactiveBelow n } }

theorem decode_encode_fcnt : decode (encode .fcnt) = .ok .fcnt := by decide

/-- FCNT's micro-step at bank `k` of a whole FCNT. -/
theorem step_fcntAfter (hs : s.seqOnly) (k : Fin Config.numBanks) :
    step (s.fcntAfter k.val) = scanOn (s.fcntAfter k.val)
      { cmd := encode .fcnt, arg := s.arg, k := k.val, snap := { c := s.inactiveBelow (k.val + 1) } } Config.numBanks 0
      ((s.fcntAfter k.val).respondResults { s.res with res0 := BitVec.ofNat 32 (s.inactiveBelow (k.val + 1)) }) :=
  (step_of_run (s := s.fcntAfter k.val) hs rfl decode_encode_fcnt).trans
    (exec_fcnt (r := { cmd := encode .fcnt, arg := s.arg, k := k.val, snap := { c := s.inactiveBelow k.val } }) rfl
      ⟨rfl, rfl, rfl⟩ (s.inactiveBelow_succ k))

theorem step_fcntAfter_of_lt (hs : s.seqOnly) (hn : n < 27) : step (s.fcntAfter n) = .next (s.fcntAfter (n + 1)) :=
  (step_fcntAfter hs ⟨n, hn.trans (by decide)⟩).trans (scanOn_of_lt _ hn)

/-- A whole FCNT with no other agent's turn (R146). -/
theorem runSteps_fcnt (hs : s.seqOnly) :
    runSteps 28 (s.issue (encode .fcnt)) =
      .next ((s.issue (encode .fcnt)).respondResults { s.res with res0 := BitVec.ofNat 32 s.inactiveBanks }) := by
  have hrun : runSteps 27 (s.issue (encode .fcnt)) = .next (s.fcntAfter 27) :=
    runSteps_sequence (f := s.fcntAfter) fun _ => step_fcntAfter_of_lt hs
  rw [← s.inactiveBelow_numBanks]
  exact runSteps_snoc hrun ((step_fcntAfter hs 27).trans (scanOn_of_not_lt _ (lt_irrefl 27)))

/-- Settles O42: the micro-step's equation at both ends of the scan, and the count after 28 of them, which fits RES0. -/
theorem fcntCountsInactiveBanks : Obligations.FcntCountsInactiveBanks := by
  refine ⟨rfl, fun s r k hk hs => ⟨fun hlt => ?_, fun hlast => ?_⟩, fun s hs => ⟨_, runSteps_fcnt hs, ?_, ?_, rfl⟩⟩
  · exact (exec_fcnt hk hs rfl).trans (scanOn_of_lt _ hlt)
  · exact ⟨_, (exec_fcnt hk hs rfl).trans (scanOn_of_not_lt _ hlast.not_lt), responded_respondResults _ _, rfl, rfl⟩
  · exact Responded.of_rspReserved_eq (responded_respondResults _ _) (rspReserved_rspIssue s.rsp)
  · have hfits : s.inactiveBanks < 2 ^ 32 := s.inactiveBanks_le.trans_lt (by decide)
    rw [State.respondResults_res, BitVec.toNat_ofNat, Nat.mod_eq_of_lt hfits, State.inactiveBanks,
      List.countP_eq_length_filter]

end Sys2Proof.Machine

/-!
The receive path: which ID words are admitted (R172, R173), what an arrival makes of the FIFO (R170), and RX (R174)
micro-step by micro-step.
-/

namespace Sys2Proof.Machine

variable {s : State} {r : Run} {p : Params} {msa msb : Bool} {fid fmask idw : Word} {e w : FrameWords}
  {q : List FrameWords} {f : LogicalFrame}

/-! ### Acceptance -/

theorem bankAdmits_iff {b : Bank} :
    bankAdmits p idw b = true ↔ b.act = true ∧ matchBank p b.msa b.msb b.fid b.fmask idw = true :=
  Bool.and_eq_true_iff

theorem State.accepts_iff : s.accepts idw = true ↔ ∃ k, bankAdmits s.params idw (s.bank k) = true := by
  simp [State.accepts]

/-- The words differ in no compared bit. -/
theorem matchMaskFormula_iff : matchMaskFormula fid fmask idw = true ↔
    ∀ b : Fin 32, fmask.getLsbD b.val = true → idw.getLsbD b.val = fid.getLsbD b.val := by
  have hbit : ∀ i, ((idw ^^^ fid) &&& fmask).getLsbD i = (0 : Word).getLsbD i ↔
      (fmask.getLsbD i = true → idw.getLsbD i = fid.getLsbD i) := fun i => by
    cases hm : fmask.getLsbD i <;> simp [hm]
  rw [matchMaskFormula, beq_iff_eq, BitVec.eq_of_getLsbD_eq_iff]
  exact ⟨fun h b => (hbit b).1 (h b b.isLt), fun h i hi => (hbit i).2 (h ⟨i, hi⟩)⟩

/-- An all-ones mask compares every bit. -/
theorem matchMaskFormula_allOnes : matchMaskFormula fid 0xFFFFFFFF idw = true ↔ idw = fid := by
  have hones : (0xFFFFFFFF : Word) = BitVec.allOnes 32 := rfl
  rw [matchMaskFormula, hones, BitVec.and_allOnes, beq_iff_eq]
  exact BitVec.xor_eq_zero_iff

theorem matchBank_of_maskFormula (h : p.matching = .maskFormula) :
    matchBank p msa msb fid fmask idw = matchMaskFormula fid fmask idw := by rw [matchBank, h]

/-- Requirement 2 of R172, whichever `P_MATCH` is. -/
theorem matchBank_allOnes : matchBank p p.modeselA p.modeselB fid 0xFFFFFFFF idw = true ↔ idw = fid := by
  cases hm : p.matching with
  | maskFormula => rw [matchBank_of_maskFormula hm, matchMaskFormula_allOnes]
  | other =>
    rw [matchBank, hm]
    exact (Bool.eq_iff_iff.1 (if_pos ⟨rfl, rfl, rfl⟩)).trans beq_iff_eq

/-- Settles O27: acceptance as a search over the banks, and requirement 2 of R172 for both kinds of `P_MATCH`. -/
theorem acceptanceByActiveBanks : Obligations.AcceptanceByActiveBanks :=
  ⟨fun _ _ => State.accepts_iff.trans (exists_congr fun _ => bankAdmits_iff), fun _ _ _ => matchBank_allOnes⟩

/-- Settles O28: the mask formula bit by bit, and under an all-ones mask. -/
theorem defaultMatchComparesMaskedBits : Obligations.DefaultMatchComparesMaskedBits := by
  intro p hp msa msb fid fmask idw
  rw [matchBank_of_maskFormula hp, matchBank_of_maskFormula hp]
  exact ⟨matchMaskFormula_iff, matchMaskFormula_allOnes⟩

/-! ### An arrival -/

theorem enqueue_of_lt (h : q.length < p.rxDepth) : enqueue p q w = q ++ [w] := if_pos h

theorem enqueue_of_full_discardNew (h : p.rxDepth ≤ q.length) (ho : p.rxOverrun = .discardNew) :
    enqueue p q w = q := by simp [enqueue, h.not_gt, ho]

theorem enqueue_of_full_overwriteLast (h : p.rxDepth ≤ q.length) (ho : p.rxOverrun = .overwriteLast) :
    enqueue p q w = q.dropLast ++ [w] := by simp [enqueue, h.not_gt, ho]

theorem State.rxArrive_of_rejected (h : s.accepts w.idw = false) : s.rxArrive w = s := by simp [State.rxArrive, h]

theorem State.rxArrive_of_accepted (h : s.accepts w.idw = true) (hq : enqueue s.params s.rxq w = q) :
    s.rxArrive w = { s with rxq := q } := by rw [State.rxArrive, if_pos h, hq]

/-- Settles O26: the arrival rejected, and the three cases of the FIFO for one that is admitted. -/
theorem arrivalAtTheFifo : Obligations.ArrivalAtTheFifo := by
  refine fun s w => ⟨fun hrej => ?_, fun hacc hlt => ?_, fun hacc hfull ho => ?_, fun q e hacc hfull ho hq => ?_⟩
  · exact congrArg _ (State.rxArrive_of_rejected hrej)
  · exact congrArg _ (State.rxArrive_of_accepted hacc (enqueue_of_lt hlt))
  · exact congrArg _ (State.rxArrive_of_accepted hacc (enqueue_of_full_discardNew hfull ho))
  · have hlast : enqueue s.params s.rxq w = q ++ [w] := by
      rw [enqueue_of_full_overwriteLast hfull ho, hq, List.dropLast_concat]
    exact congrArg _ (State.rxArrive_of_accepted hacc hlast)

/-! ### RX -/

theorem exec_rx_of_empty (hs : s.atStep r 0) (hq : s.rxq = []) : exec .rx s = .next (s.respond .retryLater) := by
  obtain ⟨hseq, hrun, hupc⟩ := hs
  exact (microStep_run hseq hrun _).trans (by simp [hupc, State.rxLevel, hq])

theorem exec_rx_of_nonempty (hs : s.atStep r 0) (hq : s.rxq ≠ []) :
    exec .rx s = .next (s.continueAt { r with upc := 1 }) := by
  obtain ⟨hseq, hrun, hupc⟩ := hs
  exact (microStep_run hseq hrun _).trans (by simp [hupc, State.rxLevel, hq])

theorem exec_rx_decode_of_some (hs : s.atStep r 1) (hq : s.rxq = e :: q) (hf : decodeFrame e = some f) :
    exec .rx s = .next (s.continueAt { r with upc := 2, snap := { r.snap with e := e, r := f } }) := by
  obtain ⟨hseq, hrun, hupc⟩ := hs
  exact (microStep_run hseq hrun _).trans (by simp [hupc, hq, hf])

theorem exec_rx_decode_of_none (hs : s.atStep r 1) (hq : s.rxq = e :: q) (hnone : decodeFrame e = none) :
    exec .rx s =
      .next (s.raiseFault { r with snap := { r.snap with e := e } } (.decodeDlcOutOfRange .rx e)) := by
  obtain ⟨hseq, hrun, hupc⟩ := hs
  exact (microStep_run hseq hrun _).trans (by simp [hupc, hq, hnone])

theorem exec_rx_release (hs : s.atStep r 2) :
    exec .rx s = .next ((s.writeRelease true).respondResults (decodedResults r.snap.r)) := by
  obtain ⟨hseq, hrun, hupc⟩ := hs
  exact (microStep_run hseq hrun _).trans (by simp [hupc])

/-- Settles O25: each micro-step's equation; the results are those of DEC for a frame that fits them. -/
theorem rxMicroSteps : Obligations.RxMicroSteps := by
  refine ⟨rfl, fun s r => ⟨fun hs hq => ?_, exec_rx_of_nonempty, fun _ _ _ => exec_rx_decode_of_some,
    fun e q hs hq hnone => ?_, fun e q hs hq hwf => ?_⟩⟩
  · exact ⟨_, exec_rx_of_empty hs hq, responded_respond s (by decide), rfl⟩
  · exact ⟨_, exec_rx_decode_of_none hs hq hnone, faulted_raiseFault _ _ _⟩
  · obtain ⟨-, hdlc, -⟩ := wellFormedFrame_iff.1 hwf
    obtain rfl : s.rxq.tail = q := congrArg List.tail hq
    exact ⟨_, exec_rx_release hs, responded_respondResults (s.writeRelease true) _, rfl,
      toNat_res0_decodedResults hwf, toNat_frameDescriptor hdlc, rfl, rfl, rfl⟩

end Sys2Proof.Machine

/-!
RSP under a step (R77, R80, R202, R220): it stands still, a command issued sets PEND, a command that ends responds OK or
RETRY_LATER, or a reset clears it. None of these makes ST 2 or ECODE other than 0.
-/

namespace Sys2Proof.Machine

variable {s t : State}

/-- What one turn of an agent can make of RSP. -/
inductive RspMove (rsp : Word) : Word → Prop
  | kept : RspMove rsp rsp
  | issued : RspMove rsp (rspIssue rsp)
  | responded {st : Status} (hst : st ≠ .error) : RspMove rsp (rspRespond rsp st)
  | cleared : RspMove rsp 0

theorem RspMove.ok {rsp : Word} : RspMove rsp (rspRespond rsp .ok) := .responded (by decide)

theorem RspMove.retryLater {rsp : Word} : RspMove rsp (rspRespond rsp .retryLater) := .responded (by decide)

/-- RSP shows no ERROR (R202). -/
def NoError (rsp : Word) : Prop := rspSt rsp ≠ Status.error.code ∧ rspEcode rsp = 0

theorem noError_zero : NoError 0 := ⟨by decide, by decide⟩

theorem Status.code_ne_error {st : Status} (h : st ≠ .error) : st.code ≠ Status.error.code := by
  cases st with
  | ok => decide
  | retryLater => decide
  | error => exact absurd rfl h

theorem RspMove.noError {v w : Word} (h : RspMove v w) (hv : NoError v) : NoError w := by
  cases h with
  | kept => exact hv
  | issued => exact ⟨by simpa using hv.1, by simpa using hv.2⟩
  | responded hst => exact ⟨by simpa using Status.code_ne_error hst, by simp [hst]⟩
  | cleared => exact noError_zero

/-! ### A micro-step of each command -/

theorem execEnc_rspMove {ext rtr : Bool} {dlc : Nat} (h : execEnc ext rtr dlc s = .next t) : RspMove s.rsp t.rsp := by
  obtain ⟨r, -, ⟨-, rfl⟩ | ⟨-, -, ⟨-, rfl⟩ | ⟨-, rfl⟩⟩⟩ := execEnc_next h
  · exact .kept
  · exact .ok
  · exact .kept

theorem execDec_rspMove (h : execDec s = .next t) : RspMove s.rsp t.rsp := by
  obtain ⟨r, -, ⟨-, rfl⟩ | ⟨-, -, ⟨f, -, rfl⟩ | ⟨-, rfl⟩⟩⟩ := execDec_next h
  · exact .kept
  · exact .ok
  · exact .kept

theorem execTx_rspMove {ext rtr : Bool} {dlc : Nat} (h : execTx ext rtr dlc s = .next t) : RspMove s.rsp t.rsp := by
  obtain ⟨r, -, ⟨-, rfl⟩ | ⟨-, ⟨-, -, rfl⟩ | ⟨-, -, rfl⟩ | ⟨m, -, hscan⟩⟩⟩ := execTx_next h
  · exact .kept
  · exact .kept
  · exact .kept
  · obtain ⟨-, -, -, rfl⟩ | ⟨-, -, -, rfl⟩ | ⟨-, -, rfl⟩ | ⟨-, rfl⟩ | ⟨-, rfl⟩ | ⟨-, rfl⟩ | ⟨-, rfl⟩ | ⟨-, rfl⟩ := hscan
    · exact .kept
    · exact .retryLater
    · exact .kept
    · exact .kept
    · exact .kept
    · exact .kept
    · exact .kept
    · exact .ok

theorem execRx_rspMove (h : execRx s = .next t) : RspMove s.rsp t.rsp := by
  obtain ⟨r, -, ⟨-, rfl⟩ | ⟨-, ⟨-, -, rfl⟩ | ⟨-, -, rfl⟩ | ⟨e, q, -, -, -, rfl⟩ | ⟨e, q, f, -, -, -, rfl⟩ | ⟨-, rfl⟩⟩⟩ :=
    execRx_next h
  · exact .kept
  · exact .retryLater
  · exact .kept
  · exact .kept
  · exact .kept
  · exact .ok

theorem execFadd_rspMove {hasMask : Bool} (h : execFadd hasMask s = .next t) : RspMove s.rsp t.rsp := by
  obtain ⟨r, -, ⟨-, rfl⟩ | ⟨-, ⟨j, -, -, rfl⟩ | ⟨-, -, rfl⟩ | ⟨k, -, hscan⟩⟩⟩ := execFadd_next h
  · exact .kept
  · exact .kept
  · exact .kept
  · obtain ⟨-, -, -, rfl⟩ | ⟨-, -, -, rfl⟩ | ⟨-, -, rfl⟩ | ⟨-, rfl⟩ | ⟨-, rfl⟩ | ⟨-, rfl⟩ | ⟨-, rfl⟩ | ⟨-, rfl⟩ := hscan
    · exact .kept
    · exact .ok
    · exact .kept
    · exact .kept
    · exact .kept
    · exact .kept
    · exact .kept
    · exact .ok

theorem execFrem_rspMove (h : execFrem s = .next t) : RspMove s.rsp t.rsp := by
  obtain ⟨r, -, ⟨-, rfl⟩ | ⟨-, ⟨-, rfl⟩ | ⟨k, -, hscan⟩⟩⟩ := execFrem_next h
  · exact .kept
  · exact .kept
  · obtain ⟨-, -, rfl⟩ | ⟨-, -, rfl⟩ | ⟨-, -, rfl⟩ | ⟨-, -, rfl⟩ | ⟨-, rfl⟩ := hscan
    · exact .kept
    · exact .kept
    · exact .kept
    · exact .ok
    · exact .ok

theorem execFclr_rspMove (h : execFclr s = .next t) : RspMove s.rsp t.rsp := by
  obtain ⟨r, -, ⟨-, rfl⟩ | ⟨-, -, k, -, ⟨-, rfl⟩ | ⟨-, rfl⟩⟩⟩ := execFclr_next h
  · exact .kept
  · exact .kept
  · exact .ok

theorem execFcnt_rspMove (h : execFcnt s = .next t) : RspMove s.rsp t.rsp := by
  obtain ⟨r, -, ⟨-, rfl⟩ | ⟨-, -, k, -, c, -, ⟨-, rfl⟩ | ⟨-, rfl⟩⟩⟩ := execFcnt_next h
  · exact .kept
  · exact .kept
  · exact .ok

theorem exec_rspMove {i : Instr} (h : exec i s = .next t) : RspMove s.rsp t.rsp := by
  cases i with
  | enc ext rtr dlc => exact execEnc_rspMove h
  | dec => exact execDec_rspMove h
  | tx ext rtr dlc => exact execTx_rspMove h
  | rx => exact execRx_rspMove h
  | fadd hasMask => exact execFadd_rspMove h
  | frem => exact execFrem_rspMove h
  | fclr => exact execFclr_rspMove h
  | fcnt => exact execFcnt_rspMove h

/-! ### A turn of each agent, and a step -/

theorem seqTurn_rspMove (h : seqTurn s = .next t) : RspMove s.rsp t.rsp := by
  obtain ⟨-, rfl⟩ | ⟨r, i, -, -, hexec⟩ := seqTurn_next h
  · exact .kept
  · exact exec_rspMove hexec

theorem hostWriteCmd_rspMove (s : State) (w : Word) : RspMove s.rsp (s.hostWriteCmd w).rsp := by
  unfold State.hostWriteCmd
  split
  · exact .kept
  · split
    · exact .issued
    · exact .kept

@[simp] theorem txDone_rsp (s : State) (m : Fin Config.numMailboxes) : (s.txDone m).rsp = s.rsp := by
  unfold State.txDone
  split <;> rfl

@[simp] theorem rxArrive_rsp (s : State) (w : FrameWords) : (s.rxArrive w).rsp = s.rsp := by
  unfold State.rxArrive
  split <;> rfl

theorem runEvent_rspMove {e : Event} (h : runEvent e s = .next t) : RspMove s.rsp t.rsp := by
  cases e with
  | seq => exact seqTurn_rspMove h
  | hostWriteArg j v => cases h; exact .kept
  | hostWriteCmd w => cases h; exact hostWriteCmd_rspMove s w
  | hostWriteTme m v => cases h; exact .kept
  | hostRead r => cases h; exact .kept
  | txDone m => cases h; rw [txDone_rsp]; exact .kept
  | rxArrive w => cases h; rw [rxArrive_rsp]; exact .kept
  | reset => cases h; exact .cleared

theorem step_rspMove (h : step s = .next t) : RspMove s.rsp t.rsp := s.takeTurn_rsp ▸ runEvent_rspMove h

theorem noError_of_reachable (h : Reachable t) : NoError t.rsp := by
  obtain ⟨p, turns, later, n, -, hrun⟩ := h
  exact runSteps_keeps (P := fun u => NoError u.rsp) (fun _ _ hu hstep => (step_rspMove hstep).noError hu)
    noError_zero hrun

/-- Settles O45: no move of RSP shows an ERROR, and RSP is 0 at reset. -/
theorem noErrorResponse : Obligations.NoErrorResponse :=
  ⟨fun _ _ h hst hecode => (step_rspMove h).noError ⟨hst, hecode⟩, fun _ => noError_of_reachable⟩

end Sys2Proof.Machine

/-!
Faults (R203): which micro-steps raise one and with which record, said once for every command, and that nothing happens
after one.
-/

namespace Sys2Proof.Machine

variable {s t : State} {r : Run} {i : Instr}

/-- A fault has stopped SEQ (R203). -/
def Seq.stopped : Seq → Bool
  | .idle => false
  | .run r => r.stopped

@[simp] theorem Seq.stopped_idle : Seq.idle.stopped = false := rfl

@[simp] theorem Seq.stopped_run (r : Run) : (Seq.run r).stopped = r.stopped := rfl

/-- What each command checks at the micro-step at `r`, and the record of the fault that it raises (R203). -/
def FaultCause (s : State) (r : Run) (rec : FaultRecord) : Instr → Prop
  | .enc ext rtr dlc =>
    r.upc = 0 ∧ wellFormedFrame (frameOperand ext rtr dlc r.arg) = false ∧ rec = preconditionRecord .enc r
  | .dec =>
    r.upc = 0 ∧ decodeFrame (wordsOperand r.arg) = none ∧ rec = .decodeDlcOutOfRange .dec (wordsOperand r.arg)
  | .tx ext rtr dlc =>
    r.upc = 0 ∧ wellFormedFrame (frameOperand ext rtr dlc r.arg) = false ∧ rec = preconditionRecord .tx r
  | .rx => r.upc = 1 ∧ ∃ e q, s.rxq = e :: q ∧ decodeFrame e = none ∧ rec = .decodeDlcOutOfRange .rx e
  | .fadd _ =>
    r.upc = 0 ∧ ∃ j, s.lowestBank (Bank.holds r.arg.arg0) = some j ∧ rec = .duplicateFilter .fadd r.arg.arg0 j
  | .frem => False
  | .fclr => False
  | .fcnt => False

/-- The micro-step of `i` at `r` raised a fault; the scratch record alone may differ from that of `r` (R174). -/
def RaisedFault (s t : State) (r : Run) (i : Instr) : Prop :=
  ∃ snap rec, t = s.raiseFault { r with snap := snap } rec ∧ FaultCause s r rec i

/-- After a fault no micro-step of any command changes anything. -/
theorem exec_of_stopped (hr : s.seq = .run r) (hs : r.stopped = true) (i : Instr) : exec i s = .next s := by
  cases i <;> exact microStep_stopped hr hs _

/-! ### A micro-step that stops SEQ raised a fault -/

section stops
variable (hr : s.seq = .run r) (hrun : r.stopped = false) (hstop : t.seq.stopped = true)
include hr hrun hstop

theorem execEnc_raisedFault {ext rtr : Bool} {dlc : Nat} (h : execEnc ext rtr dlc s = .next t) :
    RaisedFault s t r (.enc ext rtr dlc) := by
  obtain ⟨q, hq, hcase⟩ := execEnc_next h
  obtain rfl : q = r := by simpa [hq] using hr
  obtain ⟨hs, -⟩ | ⟨-, hu, ⟨-, rfl⟩ | ⟨hwf, rfl⟩⟩ := hcase
  · simp [hrun] at hs
  · simp at hstop
  · exact ⟨_, _, rfl, hu, hwf, rfl⟩

theorem execDec_raisedFault (h : execDec s = .next t) : RaisedFault s t r .dec := by
  obtain ⟨q, hq, hcase⟩ := execDec_next h
  obtain rfl : q = r := by simpa [hq] using hr
  obtain ⟨hs, -⟩ | ⟨-, hu, ⟨f, -, rfl⟩ | ⟨hnone, rfl⟩⟩ := hcase
  · simp [hrun] at hs
  · simp at hstop
  · exact ⟨_, _, rfl, hu, hnone, rfl⟩

theorem execTx_raisedFault {ext rtr : Bool} {dlc : Nat} (h : execTx ext rtr dlc s = .next t) :
    RaisedFault s t r (.tx ext rtr dlc) := by
  obtain ⟨q, hq, hcase⟩ := execTx_next h
  obtain rfl : q = r := by simpa [hq] using hr
  obtain ⟨hs, -⟩ | ⟨-, ⟨-, -, rfl⟩ | ⟨hu, hwf, rfl⟩ | ⟨m, -, hscan⟩⟩ := hcase
  · simp [hrun] at hs
  · simp [hrun] at hstop
  · exact ⟨_, _, rfl, hu, hwf, rfl⟩
  · obtain ⟨-, -, -, rfl⟩ | ⟨-, -, -, rfl⟩ | ⟨-, -, rfl⟩ | ⟨-, rfl⟩ | ⟨-, rfl⟩ | ⟨-, rfl⟩ | ⟨-, rfl⟩ | ⟨-, rfl⟩ := hscan
      <;> simp [hrun] at hstop

theorem execRx_raisedFault (h : execRx s = .next t) : RaisedFault s t r .rx := by
  obtain ⟨p, hp, hcase⟩ := execRx_next h
  obtain rfl : p = r := by simpa [hp] using hr
  obtain ⟨hs, -⟩ | ⟨-, ⟨-, -, rfl⟩ | ⟨-, -, rfl⟩ | ⟨e, q, hu, hq, hnone, rfl⟩ | ⟨e, q, f, -, -, -, rfl⟩ | ⟨-, rfl⟩⟩ := hcase
  · simp [hrun] at hs
  · simp at hstop
  · simp [hrun] at hstop
  · exact ⟨_, _, rfl, hu, e, q, hq, hnone, rfl⟩
  · simp [hrun] at hstop
  · simp at hstop

theorem execFadd_raisedFault {hasMask : Bool} (h : execFadd hasMask s = .next t) :
    RaisedFault s t r (.fadd hasMask) := by
  obtain ⟨q, hq, hcase⟩ := execFadd_next h
  obtain rfl : q = r := by simpa [hq] using hr
  obtain ⟨hs, -⟩ | ⟨-, ⟨j, hu, hj, rfl⟩ | ⟨-, -, rfl⟩ | ⟨k, -, hscan⟩⟩ := hcase
  · simp [hrun] at hs
  · exact ⟨_, _, rfl, hu, j, hj, rfl⟩
  · simp [hrun] at hstop
  · obtain ⟨-, -, -, rfl⟩ | ⟨-, -, -, rfl⟩ | ⟨-, -, rfl⟩ | ⟨-, rfl⟩ | ⟨-, rfl⟩ | ⟨-, rfl⟩ | ⟨-, rfl⟩ | ⟨-, rfl⟩ := hscan
      <;> simp [hrun] at hstop

theorem execFrem_raisedFault (h : execFrem s = .next t) : RaisedFault s t r .frem := by
  obtain ⟨q, hq, hcase⟩ := execFrem_next h
  obtain rfl : q = r := by simpa [hq] using hr
  obtain ⟨hs, -⟩ | ⟨-, ⟨-, rfl⟩ | ⟨k, -, hscan⟩⟩ := hcase
  · simp [hrun] at hs
  · simp [hrun] at hstop
  · obtain ⟨-, -, rfl⟩ | ⟨-, -, rfl⟩ | ⟨-, -, rfl⟩ | ⟨-, -, rfl⟩ | ⟨-, rfl⟩ := hscan <;> simp [hrun] at hstop

theorem execFclr_raisedFault (h : execFclr s = .next t) : RaisedFault s t r .fclr := by
  obtain ⟨q, hq, hcase⟩ := execFclr_next h
  obtain rfl : q = r := by simpa [hq] using hr
  obtain ⟨hs, -⟩ | ⟨-, -, k, -, ⟨-, rfl⟩ | ⟨-, rfl⟩⟩ := hcase
  · simp [hrun] at hs
  · simp [hrun] at hstop
  · simp at hstop

theorem execFcnt_raisedFault (h : execFcnt s = .next t) : RaisedFault s t r .fcnt := by
  obtain ⟨q, hq, hcase⟩ := execFcnt_next h
  obtain rfl : q = r := by simpa [hq] using hr
  obtain ⟨hs, -⟩ | ⟨-, -, k, -, c, -, ⟨-, rfl⟩ | ⟨-, rfl⟩⟩ := hcase
  · simp [hrun] at hs
  · simp [hrun] at hstop
  · simp at hstop

theorem exec_raisedFault (h : exec i s = .next t) : RaisedFault s t r i := by
  cases i with
  | enc ext rtr dlc => exact execEnc_raisedFault hr hrun hstop h
  | dec => exact execDec_raisedFault hr hrun hstop h
  | tx ext rtr dlc => exact execTx_raisedFault hr hrun hstop h
  | rx => exact execRx_raisedFault hr hrun hstop h
  | fadd hasMask => exact execFadd_raisedFault hr hrun hstop h
  | frem => exact execFrem_raisedFault hr hrun hstop h
  | fclr => exact execFclr_raisedFault hr hrun hstop h
  | fcnt => exact execFcnt_raisedFault hr hrun hstop h

end stops

/-- Settles O46: a micro-step that stops SEQ raised a fault of its command's own cause; FADD's is the lowest bank that
holds the identifier. -/
theorem faultStopsTheCommand : Obligations.FaultStopsTheCommand := by
  intro s t i r r' hr hrun h ht hstop
  obtain ⟨snap, rec, rfl, hcause⟩ := exec_raisedFault hr hrun (by simpa [ht] using hstop) h
  obtain rfl : { r with snap := snap, stopped := true } = r' := by simpa using ht
  refine ⟨rfl, rfl, rfl, rfl, ⟨rec, fun _ => mem_insertFault, rfl, ?_⟩, exec_of_stopped ht hstop⟩
  cases i with
  | enc ext rtr dlc => exact hcause
  | dec => exact hcause
  | tx ext rtr dlc => exact hcause
  | rx => exact hcause
  | fadd hasMask =>
    obtain ⟨hu, j, hj, hrec⟩ := hcause
    obtain ⟨hholds, hlow⟩ := State.lowestBank_some hj
    exact ⟨hu, j, Bank.holds_iff.1 hholds, fun l hl => Bank.holds_eq_false_iff.1 (hlow l hl), hrec⟩
  | frem => exact hcause
  | fclr => exact hcause
  | fcnt => exact hcause

end Sys2Proof.Machine

/-!
The host's write of CMD (R77, R204) and the outcome of the command it issues (R205): refused, faulted, or RETRY_LATER.
-/

namespace Sys2Proof.Machine

variable {s t : State} {w : Word} {i : Instr}

/-! ### The write of CMD -/

theorem hostWriteCmd_of_run {r : Run} (hr : s.seq = .run r) : s.hostWriteCmd w = s.refuse := by
  simp [State.hostWriteCmd, hr]

theorem hostWriteCmd_of_legal (hidle : s.seq = .idle) (hd : decode w = .ok i) : s.hostWriteCmd w = s.issue w := by
  simp [State.hostWriteCmd, hidle, hd]

/-- Settles O47: both writes are refused, and a refusal sets REFUSED alone. -/
theorem refusedWrites : Obligations.RefusedWrites :=
  fun _ _ => ⟨fun hidle hw => congrArg _ (hostWriteCmd_of_illegal hidle (not_exists.2 hw)),
    fun _ hr => congrArg _ (hostWriteCmd_of_run hr)⟩

/-- The decoder reads a well-formed command from its own word (R77, R81). -/
theorem decode_encode_of_wellFormed (hwf : i.wellFormed = true) : decode (encode i) = .ok i := by
  have frameCommands : ∀ (ext rtr : Bool) (d : Fin 16),
      decode (encode (.enc ext rtr d)) = .ok (.enc ext rtr d) ∧
      decode (encode (.tx ext rtr d)) = .ok (.tx ext rtr d) := by decide
  cases i with
  | enc ext rtr dlc => exact (frameCommands ext rtr ⟨dlc, Nat.lt_succ_of_le (of_decide_eq_true hwf)⟩).1
  | dec => decide
  | tx ext rtr dlc => exact (frameCommands ext rtr ⟨dlc, Nat.lt_succ_of_le (of_decide_eq_true hwf)⟩).2
  | rx => decide
  | fadd hasMask => cases hasMask <;> decide
  | frem => decide
  | fclr => decide
  | fcnt => decide

/-! ### A command issued while no other agent has a turn -/

/-- The position of a command just issued (R77). -/
theorem atStep_issue (s : State) (w : Word) : (s.issue w).atStep { cmd := w, arg := s.arg } 0 := ⟨rfl, rfl, rfl⟩

/-- The write of CMD and the command's first micro-step. -/
theorem runSteps_one_hostWriteCmd (hidle : s.seq = .idle) (hs : s.seqOnly) (hwf : i.wellFormed = true)
    (h : exec i (s.issue (encode i)) = .next t) : runSteps 1 (s.hostWriteCmd (encode i)) = .next t := by
  have hd := decode_encode_of_wellFormed hwf
  rw [hostWriteCmd_of_legal hidle hd]
  exact runSteps_snoc rfl ((step_of_run (s := s.issue (encode i)) hs rfl hd).trans h)

theorem mem_faults_raiseFault (s : State) (r : Run) (rec : FaultRecord) : rec ∈ (s.raiseFault r rec).faults :=
  mem_insertFault.2 (.inl rfl)

/-- A bank with the property is no lower than the one that the search finds. -/
theorem State.exists_lowestBank_le {p : Bank → Bool} {k : Fin Config.numBanks} (hk : p (s.bank k) = true) :
    ∃ j, s.lowestBank p = some j ∧ j ≤ k := by
  cases hfound : s.lowestBank p with
  | none => exact absurd hk (by simp [State.lowestBank_none.1 hfound k])
  | some j => exact ⟨j, rfl, not_lt.1 fun hlt => absurd hk (by simp [(State.lowestBank_some hfound).2 k hlt])⟩

/-! ### TX with every mailbox Busy -/

section txScan
variable {ext rtr : Bool} {dlc : Nat}

/-- Where a TX issued with the arguments `a` is when its scan is at mailbox `k` (R121). -/
def txScanRun (ext rtr : Bool) (dlc : Nat) (a : Args) (k : Nat) : Run where
  cmd := encode (.tx ext rtr dlc)
  arg := a
  upc := 1
  k := k
  snap := { w := encodeFrame (frameOperand ext rtr dlc a) }

/-- TX issued in `s`, its scan at mailbox `k`. -/
def State.txScanning (s : State) (ext rtr : Bool) (dlc k : Nat) : State :=
  (s.issue (encode (.tx ext rtr dlc))).continueAt (txScanRun ext rtr dlc s.arg k)

/-- The scan's micro-step at a Busy mailbox. -/
theorem step_txScanning_of_busy (hs : s.seqOnly) (hdlc : dlc ≤ 15) {m : Fin Config.numMailboxes}
    (hbusy : s.txrq m = true) :
    step (s.txScanning ext rtr dlc m.val) = scanOn (s.txScanning ext rtr dlc m.val) (txScanRun ext rtr dlc s.arg m.val)
      Config.numMailboxes 1 ((s.txScanning ext rtr dlc m.val).respond .retryLater) :=
  (step_of_run (s := s.txScanning ext rtr dlc m.val) hs rfl
    (decode_encode_of_wellFormed (i := .tx ext rtr dlc) (decide_eq_true hdlc))).trans
    (exec_tx_scan_of_busy (r := txScanRun ext rtr dlc s.arg m.val) rfl ⟨rfl, rfl, rfl⟩ hbusy)

/-- A TX of a well-formed frame that finds every mailbox Busy responds at its fourth micro-step (R121). -/
theorem runSteps_tx_of_busy (hidle : s.seq = .idle) (hs : s.seqOnly) (hdlc : dlc ≤ 15)
    (hwf : wellFormedFrame (frameOperand ext rtr dlc s.arg) = true) (hbusy : ∀ m, s.txrq m = true) :
    runSteps 4 (s.hostWriteCmd (encode (.tx ext rtr dlc))) =
      .next ((s.txScanning ext rtr dlc 2).respond .retryLater) := by
  have hcheck : runSteps 1 (s.hostWriteCmd (encode (.tx ext rtr dlc))) = .next (s.txScanning ext rtr dlc 0) :=
    runSteps_one_hostWriteCmd hidle hs (decide_eq_true hdlc) (exec_tx_of_wellFormed (atStep_issue s _) hwf)
  have hscan : runSteps 2 (s.txScanning ext rtr dlc 0) = .next (s.txScanning ext rtr dlc 2) :=
    runSteps_sequence (f := s.txScanning ext rtr dlc) fun k hk =>
      (step_txScanning_of_busy (m := ⟨k, hk.trans (by decide)⟩) hs hdlc (hbusy _)).trans (scanOn_of_lt _ hk)
  have hlast : step (s.txScanning ext rtr dlc 2) = .next ((s.txScanning ext rtr dlc 2).respond .retryLater) :=
    (step_txScanning_of_busy (m := 2) hs hdlc (hbusy _)).trans (scanOn_of_not_lt _ (lt_irrefl 2))
  exact (runSteps_add (m := 1) (n := 3) hcheck).trans (runSteps_snoc hscan hlast)

end txScan

/-! ### RX of an entry that does not decode -/

/-- Where an RX issued with the arguments `a` reads the head entry (R174). -/
def rxHeadRun (a : Args) : Run where
  cmd := encode .rx
  arg := a
  upc := 1

/-- RX issued in `s`, about to read the head entry. -/
def State.rxReadingHead (s : State) : State := (s.issue (encode .rx)).continueAt (rxHeadRun s.arg)

/-- An RX whose head entry has a DLC above 8 faults at its second micro-step (R174). -/
theorem runSteps_rx_of_undecodable {e : FrameWords} {q : List FrameWords} (hidle : s.seq = .idle) (hs : s.seqOnly)
    (hq : s.rxq = e :: q) (hnone : decodeFrame e = none) :
    runSteps 2 (s.hostWriteCmd (encode .rx)) =
      .next (s.rxReadingHead.raiseFault { rxHeadRun s.arg with snap := { e := e } } (.decodeDlcOutOfRange .rx e)) := by
  have hlevel : runSteps 1 (s.hostWriteCmd (encode .rx)) = .next s.rxReadingHead :=
    runSteps_one_hostWriteCmd hidle hs rfl (exec_rx_of_nonempty (atStep_issue s _) (by simp [hq]))
  have hstep : step s.rxReadingHead = exec .rx s.rxReadingHead :=
    step_of_run (s := s.rxReadingHead) hs rfl (decode_encode_of_wellFormed rfl)
  have hatStep : s.rxReadingHead.atStep (rxHeadRun s.arg) 1 := ⟨rfl, rfl, rfl⟩
  exact runSteps_snoc hlevel (hstep.trans (exec_rx_decode_of_none hatStep hq hnone))

/-- Settles O48: each outcome by the equation of the micro-step that decides it. -/
theorem outcomePrecedence : Obligations.OutcomePrecedence := by
  refine fun s hidle hs => ⟨fun w hw => ?_, fun ext rtr dlc hdlc hill => ?_, fun ext rtr dlc hdlc hill => ?_,
    fun ext rtr dlc hdlc hwf hbusy => ?_, fun hnone => ?_, fun hasMask k hact hfid => ?_, fun hempty => ?_,
    fun e q hq hnone => ?_⟩
  · exact hostWriteCmd_of_illegal hidle (not_exists.2 hw)
  · exact ⟨_, _, runSteps_one_hostWriteCmd hidle hs (decide_eq_true hdlc) (exec_tx_of_illFormed (atStep_issue s _) hill),
      rfl, rfl, rfl, mem_faults_raiseFault _ _ _⟩
  · exact ⟨_, _, runSteps_one_hostWriteCmd hidle hs (decide_eq_true hdlc) (exec_enc_of_illFormed (atStep_issue s _) hill),
      rfl, rfl, rfl, mem_faults_raiseFault _ _ _⟩
  · exact ⟨_, runSteps_tx_of_busy hidle hs hdlc hwf hbusy,
      Responded.of_rspReserved_eq (responded_respond (s.txScanning ext rtr dlc 2) (by decide))
        (rspReserved_rspIssue s.rsp), rfl⟩
  · exact ⟨_, _, runSteps_one_hostWriteCmd hidle hs rfl (exec_dec_of_none (atStep_issue s _) hnone),
      rfl, rfl, rfl, mem_faults_raiseFault _ _ _⟩
  · obtain ⟨j, hj, hle⟩ := State.exists_lowestBank_le (s := s.issue (encode (.fadd hasMask)))
      (Bank.holds_iff.2 ⟨hact, hfid⟩)
    exact ⟨_, _, j, runSteps_one_hostWriteCmd hidle hs rfl (exec_fadd_of_duplicate (atStep_issue s _) hj),
      rfl, rfl, rfl, hle, mem_faults_raiseFault _ _ _⟩
  · exact ⟨_, runSteps_one_hostWriteCmd hidle hs rfl (exec_rx_of_empty (atStep_issue s _) hempty),
      Responded.of_rspReserved_eq (responded_respond (s.issue (encode .rx)) (by decide)) (rspReserved_rspIssue s.rsp),
      rfl⟩
  · exact ⟨_, _, runSteps_rx_of_undecodable hidle hs hq hnone, rfl, rfl, rfl, mem_faults_raiseFault _ _ _⟩

end Sys2Proof.Machine

/-!
A reset (R220): the mailbox file and the bank file that it leaves, which are those of the state at the start of a model
run.
-/

namespace Sys2Proof.Machine

@[simp] theorem State.reset_mailbox (m : Fin Config.numMailboxes) : State.reset.mailbox m = {} := by
  simp [State.mailbox, State.reset]

@[simp] theorem State.reset_bank (k : Fin Config.numBanks) : State.reset.bank k = {} := by
  simp [State.bank, State.reset]

@[simp] theorem State.reset_txrq (m : Fin Config.numMailboxes) : State.reset.txrq m = false := by
  rw [State.txrq, State.reset_mailbox]
  rfl

@[simp] theorem State.resetBlock_bank (s : State) (k : Fin Config.numBanks) : s.resetBlock.bank k = {} :=
  State.reset_bank k

@[simp] theorem State.resetBlock_txrq (s : State) (m : Fin Config.numMailboxes) : s.resetBlock.txrq m = false :=
  State.reset_txrq m

/-- Settles O49: every mailbox and every bank of the two files is the one of all zeros; the rest is the record written. -/
theorem resetValues : Obligations.ResetValues := by
  have hact (k : Fin Config.numBanks) : (State.reset.bank k).act = false := congrArg Bank.act (State.reset_bank k)
  refine ⟨fun s => ⟨s.resetBlock, rfl, rfl, fun m => ?_, hact, rfl, rfl, rfl, rfl, rfl, rfl, rfl⟩,
    rfl, State.reset_txrq, hact, rfl, rfl, rfl, rfl, rfl⟩
  exact ⟨s.resetBlock_txrq m, congrArg not (s.resetBlock_txrq m)⟩

end Sys2Proof.Machine

/-!
The setting of a request flag (R121, R225): TX's last micro-step alone sets one, and the mailbox then holds the encoded
frame.
-/

namespace Sys2Proof.Machine

variable {s t : State} {r : Run} {i : Instr} {m : Fin Config.numMailboxes}

/-! ### What TxEngine reads of a programmed mailbox -/

/-- Two words whose bits above bit 0 agree are equal once bit 0 is cleared. -/
theorem and_not_one_congr {v w : Word} (h : ∀ i < 31, v.getLsbD (i + 1) = w.getLsbD (i + 1)) :
    v &&& ~~~1 = w &&& ~~~1 := by
  apply BitVec.eq_of_getLsbD_eq
  intro i hi
  simp only [BitVec.getLsbD_and, BitVec.getLsbD_not]
  cases i with
  | zero => simp
  | succ i => rw [h i (by omega)]

/-- Clearing a bit 0 that is 0 changes nothing. -/
theorem and_not_one_of_getLsbD_zero {w : Word} (h : w.getLsbD 0 = false) : w &&& ~~~1 = w := by
  apply BitVec.eq_of_getLsbD_eq
  intro i hi
  simp only [BitVec.getLsbD_and, BitVec.getLsbD_not]
  cases i with
  | zero => simp only [h, Bool.false_and]
  | succ i => simp [hi]

/-- The field DLC, widened, is the whole DLC word of a frame whose DLC fits it (R74). -/
theorem setWidth_extractLsb'_ofNat {n : Nat} (h : n < 16) :
    ((BitVec.ofNat 32 n).extractLsb' 0 4).setWidth 32 = BitVec.ofNat 32 n := by
  apply BitVec.eq_of_toNat_eq
  simp
  omega

/-- Above the request flag, TIR is the field IDW (R23). -/
theorem Mailbox.getLsbD_tir_succ (b : Mailbox) {i : Nat} (hi : i < 31) :
    b.tir.getLsbD (i + 1) = b.idwField.getLsbD i := by
  simp [Mailbox.idwField, hi, Nat.add_comm 1 i]

/-- TxEngine reads the ID word without the request flag (R124). -/
theorem Mailbox.frameWords_withTxrq (b : Mailbox) (v : Bool) : (b.withTxrq v).frameWords = b.frameWords := by
  have hidw : (b.withTxrq v).tir &&& ~~~1 = b.tir &&& ~~~1 := by
    exact and_not_one_congr fun i hi => by
      rw [Mailbox.getLsbD_tir_succ _ hi, Mailbox.getLsbD_tir_succ _ hi, Mailbox.idwField_withTxrq]
  simp only [Mailbox.frameWords, hidw]
  rfl

/-- A mailbox that holds the four words of a well-formed frame reads as that encoded frame. -/
theorem Mailbox.frameWords_eq_encodeFrame {b : Mailbox} {f : LogicalFrame} (hwf : wellFormedFrame f = true)
    (htir : b.tir = (encodeFrame f).idw) (hdlc : b.dlc = (encodeFrame f).dlw.extractLsb' 0 4)
    (htdlr : b.tdlr = (encodeFrame f).dl) (htdhr : b.tdhr = (encodeFrame f).dh) : b.frameWords = encodeFrame f := by
  obtain ⟨hid, hle, -⟩ := wellFormedFrame_iff.1 hwf
  obtain ⟨-, -, hzero⟩ := lowBits_encodeId hid
  have hidw : b.tir &&& ~~~1 = (encodeFrame f).idw := by
    rw [htir]
    exact and_not_one_of_getLsbD_zero hzero
  have hdlw : b.dlc.setWidth 32 = (encodeFrame f).dlw := hdlc ▸ setWidth_extractLsb'_ofNat (hle.trans_lt (by decide))
  simp only [Mailbox.frameWords, hidw, hdlw, htdlr, htdhr]

/-! ### TX's micro-steps -/

/-- A mailbox write that keeps the request flag of its own mailbox keeps every mailbox's. -/
theorem txrq_of_txmb_eq_upd {j : Fin Config.numMailboxes} {b : Mailbox}
    (h : t.txmb = (s.updMailbox j fun _ => b).txmb) (hb : b.txrq = s.txrq j) : t.txrq m = s.txrq m := by
  by_cases hjm : j = m
  · exact hjm ▸ (congrArg Mailbox.txrq (mailbox_of_txmb_eq_upd h)).trans hb
  · exact State.txrq_congr (onlyMailbox_of_txmb_eq_upd h m (Ne.symm hjm))

/-- TX sets a request flag at upc 6 alone, of the mailbox at hand. Its write of TIR sets none, since the mailbox is Free
and bit 0 of an encoded ID word is 0 (R71, R72). -/
theorem execTx_sets_txrq {ext rtr : Bool} {dlc : Nat} (hr : s.seq = .run r) (hpos : txPosition ext rtr dlc r s)
    (hfree : s.txrq m = false) (h : execTx ext rtr dlc s = .next t) (hset : t.txrq m = true) :
    r.upc = 6 ∧ m.val = r.k ∧ t.mailbox m = (s.mailbox m).withTxrq true := by
  have hkept {u : State} (hu : u.txrq m = s.txrq m) : u.txrq m ≠ true := by simp [hu, hfree]
  obtain ⟨-, -, -, hframe, hwritten⟩ := hpos
  obtain ⟨q, hq, hcase⟩ := execTx_next h
  obtain rfl : q = r := by simpa [hq] using hr
  obtain ⟨-, rfl⟩ | ⟨-, ⟨-, -, rfl⟩ | ⟨-, -, rfl⟩ | ⟨j, hj, hscan⟩⟩ := hcase
  · exact absurd hset (hkept rfl)
  · exact absurd hset (hkept rfl)
  · exact absurd hset (hkept rfl)
  · obtain ⟨-, -, -, rfl⟩ | ⟨-, -, -, rfl⟩ | ⟨-, -, rfl⟩ | ⟨hu, rfl⟩ | ⟨-, rfl⟩ | ⟨-, rfl⟩ | ⟨-, rfl⟩ | ⟨hu, rfl⟩ := hscan
    · exact absurd hset (hkept rfl)
    · exact absurd hset (hkept rfl)
    · exact absurd hset (hkept rfl)
    · obtain ⟨hwf, hw⟩ := hframe (by omega)
      obtain ⟨hid, -, -⟩ := wellFormedFrame_iff.1 hwf
      obtain ⟨-, -, hzero⟩ := lowBits_encodeId hid
      have hjfree : s.txrq j = false := (hwritten j hj).1 (by omega)
      have hclear : q.snap.w.idw.getLsbD 0 = s.txrq j := by rw [hw, hjfree]; exact hzero
      exact absurd hset (hkept (txrq_of_txmb_eq_upd rfl hclear))
    · exact absurd hset (hkept (txrq_of_txmb_eq_upd rfl (Mailbox.txrq_withDlc _ _)))
    · exact absurd hset (hkept (txrq_of_txmb_eq_upd rfl rfl))
    · exact absurd hset (hkept (txrq_of_txmb_eq_upd rfl rfl))
    · by_cases hjm : j = m
      · subst hjm
        exact ⟨hu, hj, mailbox_of_txmb_eq_upd rfl⟩
      · have honly : OnlyMailbox s ((s.writeTxrq j true).respond .ok) j := onlyMailbox_of_txmb_eq_upd rfl
        exact absurd hset (hkept (State.txrq_congr (honly m (Ne.symm hjm))))

/-- The request flag that a TX sets stands over its encoded frame (R225). -/
theorem execTx_frameWords {ext rtr : Bool} {dlc : Nat} (hr : s.seq = .run r) (hpos : txPosition ext rtr dlc r s)
    (hfree : s.txrq m = false) (h : execTx ext rtr dlc s = .next t) (hset : t.txrq m = true) :
    wellFormedFrame (frameOperand ext rtr dlc r.arg) = true ∧
      (t.mailbox m).frameWords = encodeFrame (frameOperand ext rtr dlc r.arg) := by
  obtain ⟨hu, hm, hmailbox⟩ := execTx_sets_txrq hr hpos hfree h hset
  obtain ⟨-, -, -, hframe, hwritten⟩ := hpos
  obtain ⟨hwf, -⟩ := hframe (by omega)
  obtain ⟨-, htir, hdlc, htdlr, htdhr⟩ := hwritten m hm
  refine ⟨hwf, ?_⟩
  rw [hmailbox, Mailbox.frameWords_withTxrq]
  exact Mailbox.frameWords_eq_encodeFrame hwf (htir (by omega)) (hdlc (by omega)) (htdlr (by omega)) (htdhr (by omega))

/-! ### A turn of each agent, and a step -/

/-- A command that sets a request flag is a TX. -/
theorem op_eq_tx_of_exec_sets_txrq (hfree : s.txrq m = false) (h : exec i s = .next t) (hset : t.txrq m = true) :
    i.op = .tx := by
  by_contra hi
  have hkept : t.txrq m = s.txrq m := State.txrq_congr (s.mailbox_congr t (exec_txmb_of_ne_tx hi h) m)
  simp [hkept, hfree] at hset

/-- A completion sets no request flag (R124). -/
theorem txDone_txrq_of_free {j : Fin Config.numMailboxes} (hfree : s.txrq m = false) : (s.txDone j).txrq m = false := by
  by_cases hjm : j = m
  · rw [hjm, txDone_of_free hfree, hfree]
  · exact (State.txrq_congr (onlyMailbox_txDone s j m (Ne.symm hjm))).trans hfree

/-- No turn but SEQ's sets a request flag. -/
theorem runEvent_txrq_of_free {e : Event} (he : e ≠ .seq) (hfree : s.txrq m = false) (h : runEvent e s = .next t) :
    t.txrq m = false := by
  cases e with
  | seq => exact absurd rfl he
  | hostWriteArg j v => cases h; exact hfree
  | hostWriteCmd w => cases h; exact (State.txrq_congr (s.mailbox_congr _ (hostWriteCmd_txmb s w) m)).trans hfree
  | hostWriteTme j v => cases h; exact hfree
  | hostRead r => cases h; exact hfree
  | txDone j => cases h; exact txDone_txrq_of_free hfree
  | rxArrive w => cases h; exact (State.txrq_congr (s.mailbox_congr _ (rxArrive_txmb s w) m)).trans hfree
  | reset => cases h; exact s.resetBlock_txrq m

/-- A step that sets a request flag is a micro-step of a command. -/
theorem step_sets_txrq (hfree : s.txrq m = false) (h : step s = .next t) (hset : t.txrq m = true) :
    ∃ r i, s.seq = .run r ∧ decode r.cmd = .ok i ∧ exec i s.takeTurn = .next t := by
  have hfree' : s.takeTurn.txrq m = false := (s.takeTurn_txrq m).trans hfree
  obtain ⟨-, hturn⟩ | ⟨hother, hturn⟩ := step_next h
  · obtain ⟨-, rfl⟩ | ⟨r, i, hr, hd, hexec⟩ := seqTurn_next hturn
    · simp [hfree] at hset
    · exact ⟨r, i, s.takeTurn_seq ▸ hr, hd, hexec⟩
  · simp [runEvent_txrq_of_free hother hfree' hturn] at hset

/-- Settles O21: the step is TX's last micro-step, where `Inv` says that the mailbox holds the frame's four words. -/
theorem requestFlagIsSetLast : Obligations.RequestFlagIsSetLast := by
  intro s t m hinv hfree h hset
  have hfree' : s.takeTurn.txrq m = false := (s.takeTurn_txrq m).trans hfree
  obtain ⟨r, i, hr, hd, hexec⟩ := step_sets_txrq hfree h hset
  have hr' : s.takeTurn.seq = .run r := s.takeTurn_seq.trans hr
  have hi : i.op = .tx := op_eq_tx_of_exec_sets_txrq hfree' hexec hset
  cases i with
  | tx ext rtr dlc =>
    exact ⟨r, ext, rtr, dlc, hr, hd, execTx_frameWords hr' (hinv.takeTurn.inPosition hr' hd) hfree' hexec hset⟩
  | _ => cases hi

end Sys2Proof.Machine

/-!
The setting of an activation flag (R141, R226): FADD's last micro-step alone sets one, and the bank then holds the filter's
four fields.
-/

namespace Sys2Proof.Machine

variable {s t : State} {r : Run} {i : Instr} {hasMask : Bool} {j k : Fin Config.numBanks}

/-! ### The commands that touch no bank -/

theorem execEnc_fb {ext rtr : Bool} {dlc : Nat} (h : execEnc ext rtr dlc s = .next t) : t.fb = s.fb := by
  obtain ⟨r, -, ⟨-, rfl⟩ | ⟨-, -, ⟨-, rfl⟩ | ⟨-, rfl⟩⟩⟩ := execEnc_next h <;> rfl

theorem execDec_fb (h : execDec s = .next t) : t.fb = s.fb := by
  obtain ⟨r, -, ⟨-, rfl⟩ | ⟨-, -, ⟨f, -, rfl⟩ | ⟨-, rfl⟩⟩⟩ := execDec_next h <;> rfl

theorem execTx_fb {ext rtr : Bool} {dlc : Nat} (h : execTx ext rtr dlc s = .next t) : t.fb = s.fb := by
  obtain ⟨r, -, ⟨-, rfl⟩ | ⟨-, ⟨-, -, rfl⟩ | ⟨-, -, rfl⟩ | ⟨m, -, hscan⟩⟩⟩ := execTx_next h
  · rfl
  · rfl
  · rfl
  · obtain ⟨-, -, -, rfl⟩ | ⟨-, -, -, rfl⟩ | ⟨-, -, rfl⟩ | ⟨-, rfl⟩ | ⟨-, rfl⟩ | ⟨-, rfl⟩ | ⟨-, rfl⟩ | ⟨-, rfl⟩ := hscan
      <;> rfl

theorem execRx_fb (h : execRx s = .next t) : t.fb = s.fb := by
  obtain ⟨r, -, ⟨-, rfl⟩ | ⟨-, ⟨-, -, rfl⟩ | ⟨-, -, rfl⟩ | ⟨e, q, -, -, -, rfl⟩ | ⟨e, q, f, -, -, -, rfl⟩ | ⟨-, rfl⟩⟩⟩ :=
    execRx_next h <;> rfl

theorem execFcnt_fb (h : execFcnt s = .next t) : t.fb = s.fb := by
  obtain ⟨r, -, ⟨-, rfl⟩ | ⟨-, -, k, -, c, -, ⟨-, rfl⟩ | ⟨-, rfl⟩⟩⟩ := execFcnt_next h <;> rfl

/-! ### The activation flag under a bank write -/

/-- A bank write that keeps the activation flag of its own bank keeps every bank's. -/
theorem act_of_fb_eq_upd {b : Bank} (h : t.fb = (s.updBank j fun _ => b).fb) (hb : b.act = (s.bank j).act) :
    (t.bank k).act = (s.bank k).act := by
  by_cases hjk : j = k
  · exact hjk ▸ (congrArg Bank.act (bank_of_fb_eq_upd h)).trans hb
  · exact congrArg Bank.act (onlyBank_of_fb_eq_upd h k (Ne.symm hjk))

/-- Clearing an activation flag sets none. -/
theorem State.act_writeAct_false_of_inactive (j : Fin Config.numBanks) (hfree : (s.bank k).act = false) :
    ((s.writeAct j false).bank k).act = false := by
  rw [State.writeAct_eq, State.bank_updBank]
  split
  case isTrue => rfl
  case isFalse => exact hfree

theorem execFrem_act_of_inactive (hfree : (s.bank k).act = false) (h : execFrem s = .next t) :
    (t.bank k).act = false := by
  obtain ⟨r, -, ⟨-, rfl⟩ | ⟨-, ⟨-, rfl⟩ | ⟨j, -, hscan⟩⟩⟩ := execFrem_next h
  · exact hfree
  · exact hfree
  · obtain ⟨-, -, rfl⟩ | ⟨-, -, rfl⟩ | ⟨-, -, rfl⟩ | ⟨-, -, rfl⟩ | ⟨-, rfl⟩ := hscan
    · exact hfree
    · exact hfree
    · exact hfree
    · exact hfree
    · exact State.act_writeAct_false_of_inactive j hfree

theorem execFclr_act_of_inactive (hfree : (s.bank k).act = false) (h : execFclr s = .next t) :
    (t.bank k).act = false := by
  obtain ⟨r, -, ⟨-, rfl⟩ | ⟨-, -, j, -, ⟨-, rfl⟩ | ⟨-, rfl⟩⟩⟩ := execFclr_next h
  · exact hfree
  · exact State.act_writeAct_false_of_inactive j hfree
  · exact State.act_writeAct_false_of_inactive j hfree

/-- No command but FADD sets an activation flag. -/
theorem exec_act_of_inactive (hi : i.op ≠ .fadd) (hfree : (s.bank k).act = false) (h : exec i s = .next t) :
    (t.bank k).act = false := by
  have hkept (hfb : t.fb = s.fb) : (t.bank k).act = false := State.bank_congr s t hfb k ▸ hfree
  cases i with
  | enc ext rtr dlc => exact hkept (execEnc_fb h)
  | dec => exact hkept (execDec_fb h)
  | tx ext rtr dlc => exact hkept (execTx_fb h)
  | rx => exact hkept (execRx_fb h)
  | fadd hasMask => exact absurd rfl hi
  | frem => exact execFrem_act_of_inactive hfree h
  | fclr => exact execFclr_act_of_inactive hfree h
  | fcnt => exact hkept (execFcnt_fb h)

/-! ### FADD's micro-steps -/

/-- FADD sets an activation flag at upc 6 alone, of the bank at hand. -/
theorem execFadd_sets_act (hr : s.seq = .run r) (hfree : (s.bank k).act = false)
    (h : execFadd hasMask s = .next t) (hset : (t.bank k).act = true) :
    r.upc = 6 ∧ k.val = r.k ∧ t.bank k = { s.bank k with act := true } := by
  have hkept {u : State} (hu : (u.bank k).act = (s.bank k).act) : (u.bank k).act ≠ true := by simp [hu, hfree]
  obtain ⟨q, hq, hcase⟩ := execFadd_next h
  obtain rfl : q = r := by simpa [hq] using hr
  obtain ⟨-, rfl⟩ | ⟨-, ⟨l, -, -, rfl⟩ | ⟨-, -, rfl⟩ | ⟨j, hj, hscan⟩⟩ := hcase
  · exact absurd hset (hkept rfl)
  · exact absurd hset (hkept rfl)
  · exact absurd hset (hkept rfl)
  · obtain ⟨-, -, -, rfl⟩ | ⟨-, -, -, rfl⟩ | ⟨-, -, rfl⟩ | ⟨-, rfl⟩ | ⟨-, rfl⟩ | ⟨-, rfl⟩ | ⟨-, rfl⟩ | ⟨hu, rfl⟩ := hscan
    · exact absurd hset (hkept rfl)
    · exact absurd hset (hkept rfl)
    · exact absurd hset (hkept rfl)
    · exact absurd hset (hkept (act_of_fb_eq_upd rfl rfl))
    · exact absurd hset (hkept (act_of_fb_eq_upd rfl rfl))
    · exact absurd hset (hkept (act_of_fb_eq_upd rfl rfl))
    · exact absurd hset (hkept (act_of_fb_eq_upd rfl rfl))
    · by_cases hjk : j = k
      · subst hjk
        exact ⟨hu, hj, bank_of_fb_eq_upd rfl⟩
      · have honly : OnlyBank s ((s.writeAct j true).respond .ok) j := onlyBank_of_fb_eq_upd rfl
        exact absurd hset (hkept (congrArg Bank.act (honly k (Ne.symm hjk))))

/-- The bank that a FADD activates holds the filter (R226). -/
theorem execFadd_activated_bank (hr : s.seq = .run r) (hpos : faddPosition hasMask r s)
    (hfree : (s.bank k).act = false) (h : execFadd hasMask s = .next t) (hset : (t.bank k).act = true) :
    t.bank k = ⟨true, s.params.modeselA, s.params.modeselB, r.arg.arg0,
      if hasMask then r.arg.arg1 else 0xFFFFFFFF⟩ := by
  obtain ⟨hu, hk, hbank⟩ := execFadd_sets_act hr hfree h hset
  obtain ⟨-, -, -, -, hwritten⟩ := hpos
  obtain ⟨-, hmsa, hmsb, hfid, hfmask⟩ := hwritten k hk
  have hmask := (hfmask (by omega)).trans (filterMask_filterOperand r.arg)
  simp only [hbank, hmsa (by omega), hmsb (by omega), hfid (by omega), hmask, filterOperand]

/-! ### A turn of each agent, and a step -/

@[simp] theorem hostWriteCmd_fb (s : State) (w : Word) : (s.hostWriteCmd w).fb = s.fb := by
  unfold State.hostWriteCmd
  split
  · rfl
  · split <;> rfl

@[simp] theorem txDone_fb (s : State) (m : Fin Config.numMailboxes) : (s.txDone m).fb = s.fb := by
  unfold State.txDone
  split <;> rfl

@[simp] theorem rxArrive_fb (s : State) (w : FrameWords) : (s.rxArrive w).fb = s.fb := by
  unfold State.rxArrive
  split <;> rfl

/-- No turn but SEQ's sets an activation flag. -/
theorem runEvent_act_of_inactive {e : Event} (he : e ≠ .seq) (hfree : (s.bank k).act = false)
    (h : runEvent e s = .next t) : (t.bank k).act = false := by
  have hkept {u : State} (hfb : u.fb = s.fb) : (u.bank k).act = false := State.bank_congr s u hfb k ▸ hfree
  cases e with
  | seq => exact absurd rfl he
  | hostWriteArg j v => cases h; exact hfree
  | hostWriteCmd w => cases h; exact hkept (hostWriteCmd_fb s w)
  | hostWriteTme m v => cases h; exact hfree
  | hostRead r => cases h; exact hfree
  | txDone m => cases h; exact hkept (txDone_fb s m)
  | rxArrive w => cases h; exact hkept (rxArrive_fb s w)
  | reset => cases h; exact congrArg Bank.act (s.resetBlock_bank k)

/-- A step that sets an activation flag is a micro-step of a command. -/
theorem step_sets_act (hfree : (s.bank k).act = false) (h : step s = .next t) (hset : (t.bank k).act = true) :
    ∃ r i, s.seq = .run r ∧ decode r.cmd = .ok i ∧ exec i s.takeTurn = .next t := by
  have hfree' : (s.takeTurn.bank k).act = false := s.takeTurn_bank k ▸ hfree
  obtain ⟨-, hturn⟩ | ⟨hother, hturn⟩ := step_next h
  · obtain ⟨-, rfl⟩ | ⟨r, i, hr, hd, hexec⟩ := seqTurn_next hturn
    · simp [hfree] at hset
    · exact ⟨r, i, s.takeTurn_seq ▸ hr, hd, hexec⟩
  · simp [runEvent_act_of_inactive hother hfree' hturn] at hset

/-- Settles O34: the step is FADD's last micro-step, where `Inv` says that the bank holds the filter's four fields. -/
theorem activationIsSetLast : Obligations.ActivationIsSetLast := by
  intro s t k hinv hfree h hset
  have hfree' : (s.takeTurn.bank k).act = false := s.takeTurn_bank k ▸ hfree
  obtain ⟨r, i, hr, hd, hexec⟩ := step_sets_act hfree h hset
  have hr' : s.takeTurn.seq = .run r := s.takeTurn_seq.trans hr
  by_cases hi : i.op = .fadd
  · cases i with
    | fadd hasMask =>
      have hbank := execFadd_activated_bank hr' (hinv.takeTurn.inPosition hr' hd) hfree' hexec hset
      exact ⟨r, hasMask, hr, hd, s.takeTurn_params ▸ hbank⟩
    | _ => cases hi
  · simp [exec_act_of_inactive hi hfree' hexec] at hset

end Sys2Proof.Machine

/-!
The codec's round trips (R104, R105) and what follows for results issued again (R79): packing and unpacking are inverse,
the fields of an encoded frame read back, and an encoded decoded frame is the words with their reserved bits cleared.
-/

namespace Sys2Proof.Machine

variable {f : LogicalFrame} {v w : FrameWords}

/-! ### Decode of encode -/

/-- Up to eight data bytes come back from the two words they are packed in (R75). -/
theorem unpackBytes_pack {data : List Byte} (h : data.length ≤ 8) :
    unpackBytes (packHigh data) (packLow data) data.length = data := by
  refine List.ext_getElem? fun i => ?_
  by_cases hi : i < data.length
  · rw [getElem?_unpackBytes _ _ hi (hi.trans_le h), extractLsb'_packed_byte data (hi.trans_le h), dataByte,
      List.getD_eq_getElem _ _ hi, List.getElem?_eq_getElem hi]
  · rw [List.getElem?_eq_none (by simpa using hi), List.getElem?_eq_none (by simpa using hi)]

/-- A well-formed frame has at most eight data bytes. -/
theorem length_data_le_of_wellFormed (hwf : wellFormedFrame f = true) : f.data.length ≤ 8 := by
  obtain ⟨-, hdlc, hlen⟩ := wellFormedFrame_iff.1 hwf
  exact hlen.trans_le (dataLength_le.trans hdlc)

theorem dlwDlc_ofNat {n : Nat} (h : n < 16) : dlwDlc (BitVec.ofNat 32 n) = n := by
  rw [dlwDlc_eq_digit, BitVec.toNat_ofNat]
  omega

/-- The identifier of an encoded ID word of either format. -/
theorem idwId_encodeId (hid : f.id < idBound f.ext) : idwId (encodeId f) = f.id := by
  have hide : idwIde (encodeId f) = f.ext := (lowBits_encodeId hid).1
  rw [idwId, hide]
  cases hext : f.ext with
  | false =>
    rw [hext] at hid
    exact (fields_encodeId_standard hext hid).2
  | true =>
    rw [hext] at hid
    exact id_encodeId_extended hext hid

theorem decodedFrame_encodeFrame (hwf : wellFormedFrame f = true) : decodedFrame (encodeFrame f) = f := by
  have hbytes := unpackBytes_pack (length_data_le_of_wellFormed hwf)
  obtain ⟨hid, hdlc, hlen⟩ := wellFormedFrame_iff.1 hwf
  obtain ⟨hide, hrtr, -⟩ := lowBits_encodeId hid
  have hdlw : dlwDlc (BitVec.ofNat 32 f.dlc) = f.dlc := dlwDlc_ofNat (hdlc.trans_lt (by decide))
  simp only [decodedFrame, encodeFrame, idwId_encodeId hid, idwIde, idwRtr, hide, hrtr, hdlw, ← hlen, hbytes]

theorem decodeFrame_encodeFrame (hwf : wellFormedFrame f = true) : decodeFrame (encodeFrame f) = some f := by
  obtain ⟨-, hdlc, -⟩ := wellFormedFrame_iff.1 hwf
  refine decodeFrame_eq_some_iff.2 ⟨?_, decodedFrame_encodeFrame hwf⟩
  exact (dlwDlc_ofNat (hdlc.trans_lt (by decide))).trans_le hdlc

/-- Settles O7: each field of the encoded frame reads back. -/
theorem frameRoundTrip : Obligations.FrameRoundTrip := fun _ => decodeFrame_encodeFrame

/-! ### Encode of decode -/

/-- Data byte `i` of unpacked words, 0 from position `n` on. -/
theorem dataByte_unpackBytes (dh dl : Word) {n i : Nat} (hi : i < 8) :
    dataByte (unpackBytes dh dl n) i = if i < n then (if i < 4 then dl else dh).extractLsb' (8 * (i % 4)) 8 else 0 := by
  split
  case isTrue hn => simp [dataByte, getElem?_unpackBytes dh dl hn hi]
  case isFalse hn => exact dataByte_of_length_le (by simpa using hn)

theorem packLow_unpackBytes (dh dl : Word) (n : Nat) : packLow (unpackBytes dh dl n) = clearBytesFrom dl 0 n := by
  simp [packLow, packWord, dataByte_unpackBytes, clearBytesFrom]

theorem packHigh_unpackBytes (dh dl : Word) (n : Nat) : packHigh (unpackBytes dh dl n) = clearBytesFrom dh 4 n := by
  simp [packHigh, packWord, dataByte_unpackBytes, clearBytesFrom]

theorem ofNat_dlwDlc (dlw : Word) : BitVec.ofNat 32 (dlwDlc dlw) = dlw &&& 0xF := by
  apply BitVec.eq_of_toNat_eq
  have hmask : (dlw &&& 0xF).toNat = dlw.toNat % 16 := Nat.and_two_pow_sub_one_eq_mod dlw.toNat 4
  rw [hmask, dlwDlc_eq_digit, BitVec.toNat_ofNat]
  omega

/-- The ID word of the fields of an ID word, bit by bit: its reserved bits are 0 (R83). -/
theorem encodeId_decodedFrame (w : FrameWords) : encodeId (decodedFrame w) = w.idw &&& idwUsedMask w.idw := by
  apply BitVec.eq_of_getLsbD_eq
  intro i hi
  by_cases hide : idwIde w.idw = true
  · simp only [encodeId, decodedFrame, idwUsedMask, idwId, if_pos hide, BitVec.ofNat_toNat, bitWord]
    have hbit : w.idw[2] = true := by simpa [idwIde] using hide
    interval_cases i <;> simp [idwRtr, hbit]
  · simp only [encodeId, decodedFrame, idwUsedMask, idwId, if_neg hide, BitVec.ofNat_toNat, bitWord]
    have hbit : w.idw[2] = false := by simpa [idwIde] using hide
    interval_cases i <;> simp [idwRtr, hbit]

theorem encodeFrame_decodedFrame (w : FrameWords) : encodeFrame (decodedFrame w) = clearReserved w := by
  have hid := encodeId_decodedFrame w
  simp only [encodeFrame, hid]
  simp only [clearReserved, decodedFrame, ofNat_dlwDlc, packLow_unpackBytes, packHigh_unpackBytes]

/-- Decode does not read the reserved bits (R103). -/
theorem decodeFrame_clearReserved (w : FrameWords) : decodeFrame (clearReserved w) = decodeFrame w := by
  by_cases hdlc : dlwDlc w.dlw ≤ maxDlc
  · rw [← encodeFrame_decodedFrame, decodeFrame_encodeFrame (wellFormedFrame_decodedFrame hdlc),
      decodeFrame_eq_some_iff.2 ⟨hdlc, rfl⟩]
  · have hclear : dlwDlc (clearReserved w).dlw = dlwDlc w.dlw := by
      have hlt : dlwDlc w.dlw < 16 := BitVec.isLt _
      exact (congrArg dlwDlc (ofNat_dlwDlc w.dlw).symm).trans (dlwDlc_ofNat hlt)
    rw [decodeFrame_eq_none_iff.2 (not_le.1 hdlc), decodeFrame_eq_none_iff.2 (not_le.1 (hclear ▸ hdlc))]

/-- Settles O9: encode of decode clears the reserved bits, and decode does not read them. -/
theorem canonicalWordsRoundTrip : Obligations.CanonicalWordsRoundTrip := by
  refine ⟨fun w hdlc => ?_, fun w hw => ?_, fun v w h => ?_⟩
  · exact ⟨_, decodeFrame_eq_some_iff.2 ⟨hdlc, rfl⟩, encodeFrame_decodedFrame w⟩
  · obtain ⟨hclear, hdlc⟩ : clearReserved w = w ∧ dlwDlc w.dlw ≤ maxDlc := by simpa [canonical] using hw
    exact ⟨_, decodeFrame_eq_some_iff.2 ⟨hdlc, rfl⟩, (encodeFrame_decodedFrame w).trans hclear⟩
  · rw [← decodeFrame_clearReserved v, h, decodeFrame_clearReserved]

/-! ### A result issued again -/

/-- CMD of the reissue: the frame descriptor stands at the places of X, R and D (R77, R79). -/
theorem three_or_frameDescriptor (hdlc : f.dlc ≤ maxDlc) :
    0x3 ||| frameDescriptor f = encode (.tx f.ext f.rtr f.dlc) := by
  have hd : (BitVec.ofNat 4 f.dlc).setWidth 32 = BitVec.ofNat 32 f.dlc :=
    BitVec.setWidth_ofNat_of_le_of_lt (by decide) (hdlc.trans_lt (by decide))
  have hm : bitWord false <<< 12 = 0#32 := rfl
  simp only [encode, packCmd, frameDescriptor, hd, hm, BitVec.or_zero, ← BitVec.or_assoc]
  rfl

/-- The argument words of a well-formed frame ask for that frame (R86). -/
theorem frameOperand_decodedResults (hwf : wellFormedFrame f = true) (arg3 : Word) :
    frameOperand f.ext f.rtr f.dlc ⟨BitVec.ofNat 32 f.id, packLow f.data, packHigh f.data, arg3⟩ = f := by
  have hid : (BitVec.ofNat 32 f.id).toNat = f.id := toNat_res0_decodedResults hwf
  have hle := length_data_le_of_wellFormed hwf
  obtain ⟨-, -, hlen⟩ := wellFormedFrame_iff.1 hwf
  simp only [frameOperand, hid, ← hlen, min_eq_left hle, unpackBytes_pack hle]

/-- Settles O12: the reissued word is the TX word of the frame's fields, the results are its argument words. -/
theorem reissuedResultIsTheFrame : Obligations.ReissuedResultIsTheFrame := by
  intro f hwf arg3
  obtain ⟨-, hdlc, -⟩ := wellFormedFrame_iff.1 hwf
  refine ⟨?_, frameOperand_decodedResults hwf arg3⟩
  exact (congrArg decode (three_or_frameDescriptor hdlc)).trans
    (decode_encode_of_wellFormed (i := .tx f.ext f.rtr f.dlc) (decide_eq_true (hdlc.trans (by decide))))

end Sys2Proof.Machine

/-!
The command words (R77): each as a number, no second word for a command, and the assembler's lines (R85).
-/

namespace Sys2Proof

variable {w : Word} {i : Instr} {op : Op}

/-- Settles O1: the decoder run on each word. -/
theorem specWordsDecode : Obligations.SpecWordsDecode := by
  unfold Obligations.SpecWordsDecode
  decide

/-- Settles O2: the decoder read back by cases over the commands, the field D below 16. -/
theorem decodeOfEncodeIsTheCommand : Obligations.DecodeOfEncodeIsTheCommand :=
  fun _ => Machine.decode_encode_of_wellFormed

/-- A field put above all the bits of a word is added to it. -/
theorem toNat_or_shiftLeft {v : Word} {n k : Nat} (hv : v.toNat < 2 ^ k) (hn : n * 2 ^ k < 2 ^ 32) :
    (v ||| BitVec.ofNat 32 n <<< k).toNat = v.toNat + n * 2 ^ k := by
  rw [BitVec.toNat_or, Machine.toNat_ofNat_shiftLeft hn, Nat.or_comm, ← Nat.shiftLeft_add_eq_or_of_lt hv,
    Nat.shiftLeft_eq, Nat.add_comm]

/-- A packed word as a number: its fields do not overlap. -/
theorem toNat_packCmd (op : Op) (x r : Bool) {d : Nat} (hd : d ≤ maxDlcField) (m : Bool) :
    (packCmd op x r d m).toNat = op.code + 16 * x.toNat + 32 * r.toNat + 256 * d + 4096 * m.toNat := by
  have hlow : (BitVec.ofNat 32 op.code ||| bitWord x <<< 4 ||| bitWord r <<< 5).toNat =
      op.code + 16 * x.toNat + 32 * r.toNat := by cases op <;> cases x <;> cases r <;> rfl
  have hlow_lt : op.code + 16 * x.toNat + 32 * r.toNat < 2 ^ 8 := by cases op <;> cases x <;> cases r <;> decide
  have hdlc : (BitVec.ofNat 4 d).setWidth 32 = BitVec.ofNat 32 d :=
    BitVec.setWidth_ofNat_of_le_of_lt (by decide) (hd.trans_lt (by decide))
  have hm : bitWord m = BitVec.ofNat 32 m.toNat := by cases m <;> rfl
  have hm_lt : m.toNat < 2 := Bool.toNat_lt m
  have hd_le : d ≤ 15 := hd
  have hmid := toNat_or_shiftLeft (n := d) (hlow.trans_lt hlow_lt) (by omega)
  rw [packCmd, hdlc, hm, toNat_or_shiftLeft (k := 12) (by omega) (by omega), hmid, hlow]
  omega

/-- A legal word as a number: what is not in its five fields is 0 (R82). -/
theorem LegalFor.toNat_eq (h : LegalFor op w) :
    w.toNat = op.code + 16 * (cmdX w).toNat + 32 * (cmdR w).toNat + 256 * cmdD w + 4096 * (cmdM w).toNat := by
  obtain ⟨hopc, hlow, hhigh, -, -⟩ := h
  rw [cmdOpc_eq_digit] at hopc
  rw [cmdReservedLow_eq_digit] at hlow
  rw [cmdReservedHigh_eq_digit] at hhigh
  rw [cmdX_toNat, cmdR_toNat, cmdD_eq_digit, cmdM_toNat]
  omega

theorem cmdD_le (w : Word) : cmdD w ≤ maxDlcField := Nat.le_of_lt_succ (BitVec.isLt (w.extractLsb' 8 4))

/-- A legal word is put together from its own fields. -/
theorem LegalFor.packCmd_eq (h : LegalFor op w) : packCmd op (cmdX w) (cmdR w) (cmdD w) (cmdM w) = w :=
  BitVec.eq_of_toNat_eq ((toNat_packCmd op _ _ (cmdD_le w) _).trans h.toNat_eq.symm)

/-- A legal word is the word of the command it decodes to: the fields that the command does not carry are 0. -/
theorem LegalFor.encode_commandOf (h : LegalFor op w) : encode (commandOf op w) = w := by
  have hpack := h.packCmd_eq
  obtain ⟨-, -, -, hframe, hmask⟩ := h
  cases op with
  | enc => rwa [hmask (by decide)] at hpack
  | tx => rwa [hmask (by decide)] at hpack
  | fadd =>
    obtain ⟨hx, hr, hd⟩ := hframe (by decide) (by decide)
    rwa [hx, hr, hd] at hpack
  | _ =>
    obtain ⟨hx, hr, hd⟩ := hframe (by decide) (by decide)
    rwa [hx, hr, hd, hmask (by decide)] at hpack

theorem wellFormed_commandOf (op : Op) (w : Word) : (commandOf op w).wellFormed = true := by
  cases op with
  | enc => exact decide_eq_true (cmdD_le w)
  | tx => exact decide_eq_true (cmdD_le w)
  | _ => rfl

/-- Settles O3: the words as sums of their fields, and a word that decodes as the word of its own fields. -/
theorem commandWordLayout : Obligations.CommandWordLayout := by
  refine ⟨fun ext rtr dlc hdlc => ⟨?_, ?_⟩, fun hasMask => ?_, rfl, rfl, rfl, rfl, rfl, fun w i h => ?_⟩
  · exact toNat_packCmd .enc ext rtr hdlc false
  · exact toNat_packCmd .tx ext rtr hdlc false
  · exact toNat_packCmd .fadd false false (Nat.zero_le _) hasMask
  · obtain ⟨op, hw, rfl⟩ := decode_eq_ok_iff.1 h
    exact ⟨hw.encode_commandOf, wellFormed_commandOf op w⟩

namespace Machine

/-! ### The assembler -/

/-- The argument words of at most eight bytes ask for a data frame of those bytes (R85, R86). -/
theorem frameOperand_frameArgs (ext : Bool) (id : Word) {bytes : List Byte} (h : bytes.length ≤ maxDlc) :
    frameOperand ext false bytes.length (frameArgs id bytes) = ⟨id.toNat, ext, false, bytes.length, bytes⟩ := by
  have hmin : min (dataLength false bytes.length) 8 = bytes.length := min_eq_left h
  simp only [frameOperand, frameArgs, hmin, unpackBytes_pack h]

/-- A remote line asks for a remote frame with no data. -/
theorem frameOperand_remote (ext : Bool) (dlc : Nat) (a : Args) :
    frameOperand ext true dlc a = ⟨a.arg0.toNat, ext, true, dlc, []⟩ := by
  have hdata := data_frameOperand_eq_nil (ext := ext) (rtr := true) (dlc := dlc) (a := a) (.inl rfl)
  rw [← hdata]
  rfl

/-- A valid line has a CMD word. -/
theorem wellFormed_assemble {c : AsmCommand} (h : c.valid = true) : (assemble c).1.wellFormed = true := by
  have data_fits {bytes : List Byte} {dlc : Nat}
      (h : (decide (bytes.length = dlc) && decide (dlc ≤ maxDlc)) = true) : decide (dlc ≤ maxDlcField) = true := by
    rw [Bool.and_eq_true, decide_eq_true_eq, decide_eq_true_eq] at h
    exact decide_eq_true (h.2.trans (by decide))
  cases c with
  | enc ext id dlc bytes => exact data_fits h
  | encRemote ext id dlc => exact h
  | tx ext id dlc bytes => exact data_fits h
  | txRemote ext id dlc => exact h
  | fadd fid mask => cases mask <;> rfl
  | _ => rfl

/-- The frame of a valid data line. -/
theorem frameOperand_of_dataLine (ext : Bool) (id : Word) {dlc : Nat} {bytes : List Byte}
    (hvalid : (decide (bytes.length = dlc) && decide (dlc ≤ maxDlc)) = true) :
    frameOperand ext false dlc (frameArgs id bytes) = ⟨id.toNat, ext, false, dlc, bytes⟩ := by
  rw [Bool.and_eq_true, decide_eq_true_eq, decide_eq_true_eq] at hvalid
  obtain ⟨rfl, hle⟩ := hvalid
  exact frameOperand_frameArgs ext id hle

/-- Settles O13: the fields of each of the ten forms, its word decoded, and the operands its argument words stand for. -/
theorem assembledCommandMeansItsOperands : Obligations.AssembledCommandMeansItsOperands := by
  refine ⟨fun c => ?_, fun c h => decode_encode_of_wellFormed (wellFormed_assemble h),
    fun ext id dlc bytes c x r d hc hvalid h => ?_, fun ext id dlc c x r d hc h => ?_, fun fid mask hasMask h => ?_,
    fun _ => rfl, fun _ _ _ _ => rfl⟩
  · cases c with
    | fadd fid mask => cases mask <;> rfl
    | _ => rfl
  · obtain rfl | rfl := hc
    · obtain ⟨rfl, rfl, rfl⟩ : ext = x ∧ false = r ∧ dlc = d := by simpa [assemble] using h
      exact frameOperand_of_dataLine ext id hvalid
    · obtain ⟨rfl, rfl, rfl⟩ : ext = x ∧ false = r ∧ dlc = d := by simpa [assemble] using h
      exact frameOperand_of_dataLine ext id hvalid
  · obtain rfl | rfl := hc
    · obtain ⟨rfl, rfl, rfl⟩ : ext = x ∧ true = r ∧ dlc = d := by simpa [assemble] using h
      exact ⟨frameOperand_remote _ _ _, rfl, rfl⟩
    · obtain ⟨rfl, rfl, rfl⟩ : ext = x ∧ true = r ∧ dlc = d := by simpa [assemble] using h
      exact ⟨frameOperand_remote _ _ _, rfl, rfl⟩
  · cases mask with
    | none =>
      obtain rfl : false = hasMask := by simpa [assemble] using h
      rfl
    | some mask =>
      obtain rfl : true = hasMask := by simpa [assemble] using h
      rfl

end Machine

end Sys2Proof

/-!
The frame of a micro-step (R21, R78, R79): which parts of the state each command can change at all, and how a micro-step
leaves SEQ, RSP and the result registers.
-/

namespace Sys2Proof.Machine

variable {s t : State} {r r' : Run} {i : Instr} {ext rtr hasMask : Bool} {dlc : Nat} {k : Fin Config.numBanks}

/-! ### What each command leaves unchanged -/

theorem execEnc_frame (h : execEnc ext rtr dlc s = .next t) :
    t = { s with seq := t.seq, rsp := t.rsp, res := t.res, faults := t.faults } := by
  obtain ⟨r, -, ⟨-, rfl⟩ | ⟨-, -, ⟨-, rfl⟩ | ⟨-, rfl⟩⟩⟩ := execEnc_next h <;> rfl

theorem execDec_frame (h : execDec s = .next t) :
    t = { s with seq := t.seq, rsp := t.rsp, res := t.res, faults := t.faults } := by
  obtain ⟨r, -, ⟨-, rfl⟩ | ⟨-, -, ⟨f, -, rfl⟩ | ⟨-, rfl⟩⟩⟩ := execDec_next h <;> rfl

theorem execTx_frame (h : execTx ext rtr dlc s = .next t) :
    t = { s with seq := t.seq, txmb := t.txmb, rsp := t.rsp, faults := t.faults } := by
  obtain ⟨r, -, ⟨-, rfl⟩ | ⟨-, ⟨-, -, rfl⟩ | ⟨-, -, rfl⟩ | ⟨m, -, hscan⟩⟩⟩ := execTx_next h
  · rfl
  · rfl
  · rfl
  · obtain ⟨-, -, -, rfl⟩ | ⟨-, -, -, rfl⟩ | ⟨-, -, rfl⟩ | ⟨-, rfl⟩ | ⟨-, rfl⟩ | ⟨-, rfl⟩ | ⟨-, rfl⟩ | ⟨-, rfl⟩ := hscan
      <;> rfl

theorem execRx_frame (h : execRx s = .next t) :
    t = { s with seq := t.seq, rxq := t.rxq, rsp := t.rsp, res := t.res, faults := t.faults } := by
  obtain ⟨r, -, ⟨-, rfl⟩ | ⟨-, ⟨-, -, rfl⟩ | ⟨-, -, rfl⟩ | ⟨e, q, -, -, -, rfl⟩ | ⟨e, q, f, -, -, -, rfl⟩ | ⟨-, rfl⟩⟩⟩ :=
    execRx_next h <;> rfl

theorem execFadd_frame (h : execFadd hasMask s = .next t) :
    t = { s with seq := t.seq, fb := t.fb, rsp := t.rsp, faults := t.faults } := by
  obtain ⟨r, -, ⟨-, rfl⟩ | ⟨-, ⟨j, -, -, rfl⟩ | ⟨-, -, rfl⟩ | ⟨k, -, hscan⟩⟩⟩ := execFadd_next h
  · rfl
  · rfl
  · rfl
  · obtain ⟨-, -, -, rfl⟩ | ⟨-, -, -, rfl⟩ | ⟨-, -, rfl⟩ | ⟨-, rfl⟩ | ⟨-, rfl⟩ | ⟨-, rfl⟩ | ⟨-, rfl⟩ | ⟨-, rfl⟩ := hscan
      <;> rfl

theorem execFrem_frame (h : execFrem s = .next t) : t = { s with seq := t.seq, fb := t.fb, rsp := t.rsp } := by
  obtain ⟨r, -, ⟨-, rfl⟩ | ⟨-, ⟨-, rfl⟩ | ⟨k, -, hscan⟩⟩⟩ := execFrem_next h
  · rfl
  · rfl
  · obtain ⟨-, -, rfl⟩ | ⟨-, -, rfl⟩ | ⟨-, -, rfl⟩ | ⟨-, -, rfl⟩ | ⟨-, rfl⟩ := hscan <;> rfl

theorem execFclr_frame (h : execFclr s = .next t) : t = { s with seq := t.seq, fb := t.fb, rsp := t.rsp } := by
  obtain ⟨r, -, ⟨-, rfl⟩ | ⟨-, -, k, -, ⟨-, rfl⟩ | ⟨-, rfl⟩⟩⟩ := execFclr_next h <;> rfl

/-- FCNT changes RES0 alone of the result registers (R146). -/
theorem execFcnt_frame (h : execFcnt s = .next t) :
    t = { s with seq := t.seq, rsp := t.rsp, res := { s.res with res0 := t.res.res0 } } := by
  obtain ⟨r, -, ⟨-, rfl⟩ | ⟨-, -, k, -, c, -, ⟨-, rfl⟩ | ⟨-, rfl⟩⟩⟩ := execFcnt_next h <;> rfl

/-- No command changes the parameters, CMD, ARG0 to ARG3, REFUSED, BUSLOG or the model's own fields. -/
theorem exec_frame (h : exec i s = .next t) :
    t = { s with
      seq := t.seq, txmb := t.txmb, fb := t.fb, rxq := t.rxq, rsp := t.rsp, res := t.res, faults := t.faults } := by
  cases i with
  | enc ext rtr dlc => rw [execEnc_frame h]
  | dec => rw [execDec_frame h]
  | tx ext rtr dlc => rw [execTx_frame h]
  | rx => rw [execRx_frame h]
  | fadd hasMask => rw [execFadd_frame h]
  | frem => rw [execFrem_frame h]
  | fclr => rw [execFclr_frame h]
  | fcnt => rw [execFcnt_frame h]

/-- Only FADD, FREM and FCLR change a bank. -/
theorem exec_fb_of_ne (hadd : i.op ≠ .fadd) (hrem : i.op ≠ .frem) (hclr : i.op ≠ .fclr) (h : exec i s = .next t) :
    t.fb = s.fb := by
  cases i with
  | enc ext rtr dlc => exact execEnc_fb h
  | dec => exact execDec_fb h
  | tx ext rtr dlc => exact execTx_fb h
  | rx => exact execRx_fb h
  | fadd hasMask => exact absurd rfl hadd
  | frem => exact absurd rfl hrem
  | fclr => exact absurd rfl hclr
  | fcnt => exact execFcnt_fb h

/-- Only RX changes the FIFO. -/
theorem exec_rxq_of_ne_rx (hi : i.op ≠ .rx) (h : exec i s = .next t) : t.rxq = s.rxq := by
  cases i with
  | enc ext rtr dlc => rw [execEnc_frame h]
  | dec => rw [execDec_frame h]
  | tx ext rtr dlc => rw [execTx_frame h]
  | rx => exact absurd rfl hi
  | fadd hasMask => rw [execFadd_frame h]
  | frem => rw [execFrem_frame h]
  | fclr => rw [execFclr_frame h]
  | fcnt => rw [execFcnt_frame h]

/-- Only ENC, DEC, RX and FCNT change a result register. -/
theorem exec_res_of_ne (henc : i.op ≠ .enc) (hdec : i.op ≠ .dec) (hrx : i.op ≠ .rx) (hcnt : i.op ≠ .fcnt)
    (h : exec i s = .next t) : t.res = s.res := by
  cases i with
  | enc ext rtr dlc => exact absurd rfl henc
  | dec => exact absurd rfl hdec
  | tx ext rtr dlc => rw [execTx_frame h]
  | rx => exact absurd rfl hrx
  | fadd hasMask => rw [execFadd_frame h]
  | frem => rw [execFrem_frame h]
  | fclr => rw [execFclr_frame h]
  | fcnt => exact absurd rfl hcnt

/-- Clearing an activation flag changes no other field of any bank. -/
theorem State.bank_writeAct_false (s : State) (j k : Fin Config.numBanks) :
    (s.writeAct j false).bank k = { s.bank k with act := ((s.writeAct j false).bank k).act } := by
  rw [State.writeAct_eq, State.bank_updBank]
  split
  case isTrue hjk => rw [hjk]
  case isFalse => rfl

theorem execFrem_bank (h : execFrem s = .next t) (k : Fin Config.numBanks) :
    t.bank k = { s.bank k with act := (t.bank k).act } := by
  obtain ⟨r, -, ⟨-, rfl⟩ | ⟨-, ⟨-, rfl⟩ | ⟨j, -, hscan⟩⟩⟩ := execFrem_next h
  · rfl
  · rfl
  · obtain ⟨-, -, rfl⟩ | ⟨-, -, rfl⟩ | ⟨-, -, rfl⟩ | ⟨-, -, rfl⟩ | ⟨-, rfl⟩ := hscan
    · rfl
    · rfl
    · rfl
    · rfl
    · exact s.bank_writeAct_false j k

theorem execFclr_bank (h : execFclr s = .next t) (k : Fin Config.numBanks) :
    t.bank k = { s.bank k with act := (t.bank k).act } := by
  obtain ⟨r, -, ⟨-, rfl⟩ | ⟨-, -, j, -, ⟨-, rfl⟩ | ⟨-, rfl⟩⟩⟩ := execFclr_next h
  · rfl
  · exact s.bank_writeAct_false j k
  · exact s.bank_writeAct_false j k

/-! ### SEQ, RSP and the results -/

/-- How a micro-step leaves SEQ: the command goes on, or stands still stopped, with its latched words, no response
given and at most one fault recorded; or it has ended with a response that is no ERROR. -/
inductive SeqMove (s t : State) : Prop
  | goesOn (r r' : Run) (hr : s.seq = .run r) (hr' : t.seq = .run r') (hcmd : r'.cmd = r.cmd) (harg : r'.arg = r.arg)
      (hrsp : t.rsp = s.rsp) (hres : t.res = s.res)
      (hfaults : t.faults = s.faults ∨ ∃ rec, t.faults = insertFault rec s.faults)
  | ends (st : Status) (hst : st ≠ .error) (hidle : t.seq = .idle) (hrsp : t.rsp = rspRespond s.rsp st)
      (hfaults : t.faults = s.faults)

theorem SeqMove.keeps (hr : s.seq = .run r) (hr' : t.seq = .run r') (hcmd : r'.cmd = r.cmd) (harg : r'.arg = r.arg)
    (hrsp : t.rsp = s.rsp) (hres : t.res = s.res) (hfaults : t.faults = s.faults) : SeqMove s t :=
  .goesOn r r' hr hr' hcmd harg hrsp hres (.inl hfaults)

theorem SeqMove.refl (hr : s.seq = .run r) : SeqMove s s := .keeps hr hr rfl rfl rfl rfl rfl

/-- A fault records itself and leaves SEQ where it is (R203). -/
theorem seqMove_raiseFault {rec : FaultRecord} (hr : s.seq = .run r) (hcmd : r'.cmd = r.cmd) (harg : r'.arg = r.arg) :
    SeqMove s (s.raiseFault r' rec) := .goesOn r { r' with stopped := true } hr rfl hcmd harg rfl rfl (.inr ⟨rec, rfl⟩)

theorem SeqMove.endsOk (hidle : t.seq = .idle) (hrsp : t.rsp = rspRespond s.rsp .ok) (hfaults : t.faults = s.faults) :
    SeqMove s t := .ends .ok (by decide) hidle hrsp hfaults

theorem SeqMove.endsRetryLater (hidle : t.seq = .idle) (hrsp : t.rsp = rspRespond s.rsp .retryLater)
    (hfaults : t.faults = s.faults) : SeqMove s t := .ends .retryLater (by decide) hidle hrsp hfaults

theorem execEnc_seqMove (h : execEnc ext rtr dlc s = .next t) : SeqMove s t := by
  obtain ⟨r, hr, ⟨-, rfl⟩ | ⟨-, -, ⟨-, rfl⟩ | ⟨-, rfl⟩⟩⟩ := execEnc_next h
  · exact .refl hr
  · exact .endsOk rfl rfl rfl
  · exact seqMove_raiseFault hr rfl rfl

theorem execDec_seqMove (h : execDec s = .next t) : SeqMove s t := by
  obtain ⟨r, hr, ⟨-, rfl⟩ | ⟨-, -, ⟨f, -, rfl⟩ | ⟨-, rfl⟩⟩⟩ := execDec_next h
  · exact .refl hr
  · exact .endsOk rfl rfl rfl
  · exact seqMove_raiseFault hr rfl rfl

theorem execTx_seqMove (h : execTx ext rtr dlc s = .next t) : SeqMove s t := by
  obtain ⟨r, hr, ⟨-, rfl⟩ | ⟨-, ⟨-, -, rfl⟩ | ⟨-, -, rfl⟩ | ⟨m, -, hscan⟩⟩⟩ := execTx_next h
  · exact .refl hr
  · exact .keeps hr rfl rfl rfl rfl rfl rfl
  · exact seqMove_raiseFault hr rfl rfl
  · obtain ⟨-, -, -, rfl⟩ | ⟨-, -, -, rfl⟩ | ⟨-, -, rfl⟩ | ⟨-, rfl⟩ | ⟨-, rfl⟩ | ⟨-, rfl⟩ | ⟨-, rfl⟩ | ⟨-, rfl⟩ := hscan
    · exact .keeps hr rfl rfl rfl rfl rfl rfl
    · exact .endsRetryLater rfl rfl rfl
    · exact .keeps hr rfl rfl rfl rfl rfl rfl
    · exact .keeps hr rfl rfl rfl rfl rfl rfl
    · exact .keeps hr rfl rfl rfl rfl rfl rfl
    · exact .keeps hr rfl rfl rfl rfl rfl rfl
    · exact .keeps hr rfl rfl rfl rfl rfl rfl
    · exact .endsOk rfl rfl rfl

theorem execRx_seqMove (h : execRx s = .next t) : SeqMove s t := by
  obtain ⟨r, hr, ⟨-, rfl⟩ | ⟨-, ⟨-, -, rfl⟩ | ⟨-, -, rfl⟩ | ⟨e, q, -, -, -, rfl⟩ | ⟨e, q, f, -, -, -, rfl⟩ | ⟨-, rfl⟩⟩⟩ :=
    execRx_next h
  · exact .refl hr
  · exact .endsRetryLater rfl rfl rfl
  · exact .keeps hr rfl rfl rfl rfl rfl rfl
  · exact seqMove_raiseFault hr rfl rfl
  · exact .keeps hr rfl rfl rfl rfl rfl rfl
  · exact .endsOk rfl rfl rfl

theorem execFadd_seqMove (h : execFadd hasMask s = .next t) : SeqMove s t := by
  obtain ⟨r, hr, ⟨-, rfl⟩ | ⟨-, ⟨j, -, -, rfl⟩ | ⟨-, -, rfl⟩ | ⟨k, -, hscan⟩⟩⟩ := execFadd_next h
  · exact .refl hr
  · exact seqMove_raiseFault hr rfl rfl
  · exact .keeps hr rfl rfl rfl rfl rfl rfl
  · obtain ⟨-, -, -, rfl⟩ | ⟨-, -, -, rfl⟩ | ⟨-, -, rfl⟩ | ⟨-, rfl⟩ | ⟨-, rfl⟩ | ⟨-, rfl⟩ | ⟨-, rfl⟩ | ⟨-, rfl⟩ := hscan
    · exact .keeps hr rfl rfl rfl rfl rfl rfl
    · exact .endsOk rfl rfl rfl
    · exact .keeps hr rfl rfl rfl rfl rfl rfl
    · exact .keeps hr rfl rfl rfl rfl rfl rfl
    · exact .keeps hr rfl rfl rfl rfl rfl rfl
    · exact .keeps hr rfl rfl rfl rfl rfl rfl
    · exact .keeps hr rfl rfl rfl rfl rfl rfl
    · exact .endsOk rfl rfl rfl

theorem execFrem_seqMove (h : execFrem s = .next t) : SeqMove s t := by
  obtain ⟨r, hr, ⟨-, rfl⟩ | ⟨-, ⟨-, rfl⟩ | ⟨k, -, hscan⟩⟩⟩ := execFrem_next h
  · exact .refl hr
  · exact .keeps hr rfl rfl rfl rfl rfl rfl
  · obtain ⟨-, -, rfl⟩ | ⟨-, -, rfl⟩ | ⟨-, -, rfl⟩ | ⟨-, -, rfl⟩ | ⟨-, rfl⟩ := hscan
    · exact .keeps hr rfl rfl rfl rfl rfl rfl
    · exact .keeps hr rfl rfl rfl rfl rfl rfl
    · exact .keeps hr rfl rfl rfl rfl rfl rfl
    · exact .endsOk rfl rfl rfl
    · exact .endsOk rfl rfl rfl

theorem execFclr_seqMove (h : execFclr s = .next t) : SeqMove s t := by
  obtain ⟨r, hr, ⟨-, rfl⟩ | ⟨-, -, k, -, ⟨-, rfl⟩ | ⟨-, rfl⟩⟩⟩ := execFclr_next h
  · exact .refl hr
  · exact .keeps hr rfl rfl rfl rfl rfl rfl
  · exact .endsOk rfl rfl rfl

theorem execFcnt_seqMove (h : execFcnt s = .next t) : SeqMove s t := by
  obtain ⟨r, hr, ⟨-, rfl⟩ | ⟨-, -, k, -, c, -, ⟨-, rfl⟩ | ⟨-, rfl⟩⟩⟩ := execFcnt_next h
  · exact .refl hr
  · exact .keeps hr rfl rfl rfl rfl rfl rfl
  · exact .endsOk rfl rfl rfl

theorem exec_seqMove (h : exec i s = .next t) : SeqMove s t := by
  cases i with
  | enc ext rtr dlc => exact execEnc_seqMove h
  | dec => exact execDec_seqMove h
  | tx ext rtr dlc => exact execTx_seqMove h
  | rx => exact execRx_seqMove h
  | fadd hasMask => exact execFadd_seqMove h
  | frem => exact execFrem_seqMove h
  | fclr => exact execFclr_seqMove h
  | fcnt => exact execFcnt_seqMove h

/-- RSP and the results change only with the response. -/
theorem SeqMove.kept_of_ne_idle (h : SeqMove s t) (hne : t.seq ≠ .idle) : t.rsp = s.rsp ∧ t.res = s.res := by
  cases h with
  | goesOn r r' hr hr' hcmd harg hrsp hres hfaults => exact ⟨hrsp, hres⟩
  | ends st hst hidle hrsp hfaults => exact absurd hidle hne

/-- Settles O55: each clause by the frame of the commands it speaks of. -/
theorem commandFrame : Obligations.CommandFrame := by
  intro s t i h
  have hframe := exec_frame h
  have hfaults (hi : i.op = .frem ∨ i.op = .fclr ∨ i.op = .fcnt) : t.faults = s.faults := by
    cases i with
    | frem => rw [execFrem_frame h]
    | fclr => rw [execFclr_frame h]
    | fcnt => rw [execFcnt_frame h]
    | _ => simp [Instr.op] at hi
  have hbank (hi : i.op = .frem ∨ i.op = .fclr) (k : Fin Config.numBanks) :
      t.bank k = { s.bank k with act := (t.bank k).act } := by
    cases i with
    | frem => exact execFrem_bank h k
    | fclr => exact execFclr_bank h k
    | _ => simp [Instr.op] at hi
  have hres (hi : i.op = .fcnt) : t.res = { s.res with res0 := t.res.res0 } := by
    cases i with
    | fcnt => exact congrArg State.res (execFcnt_frame h)
    | _ => cases hi
  refine ⟨?_, ?_, ?_, ?_, ?_, ?_, ?_, ?_, fun hi => exec_txmb_of_ne_tx hi h,
    fun hadd hrem hclr => exec_fb_of_ne hadd hrem hclr h, hbank, fun hi => exec_rxq_of_ne_rx hi h,
    fun henc hdec hrx hcnt => exec_res_of_ne henc hdec hrx hcnt h, hres, hfaults, (exec_seqMove h).kept_of_ne_idle⟩
  all_goals rw [hframe]

end Sys2Proof.Machine

/-!
Progress (R10, R230): at a position that names a micro-step of its command's program, every micro-step answers a next
state, and it ends the command, faults, or goes on to a position from which fewer micro-steps remain.
-/

namespace Sys2Proof.Machine

variable {s t u : State} {r r' : Run} {i : Instr} {ext rtr hasMask : Bool} {dlc : Nat}

/-! ### Positions of a program -/

/-- `upc` and `k` name a micro-step of the command's program, and an RX that has seen an entry still has one to read
(R174). -/
def AtProgram (i : Instr) (r : Run) (s : State) : Prop :=
  match i with
  | .enc _ _ _ => r.upc = 0
  | .dec => r.upc = 0
  | .tx _ _ _ => r.upc ≤ 6 ∧ r.k < Config.numMailboxes
  | .rx => r.upc ≤ 2 ∧ (1 ≤ r.upc → s.rxq ≠ [])
  | .fadd _ => r.upc ≤ 6 ∧ r.k < Config.numBanks
  | .frem => r.upc ≤ 3 ∧ r.k < Config.numBanks
  | .fclr => r.upc = 0 ∧ r.k < Config.numBanks
  | .fcnt => r.upc = 0 ∧ r.k < Config.numBanks

/-- A command just issued is at its first micro-step. -/
theorem atProgram_issue (i : Instr) (w : Word) (a : Args) (s : State) : AtProgram i { cmd := w, arg := a } s := by
  cases i <;> simp [AtProgram, Config.numMailboxes, Config.numBanks]

/-- Only RX's position looks at the state: an entry must be left in the FIFO. -/
theorem AtProgram.of_rxq (h : AtProgram i r s) (hq : s.rxq ≠ [] → t.rxq ≠ []) : AtProgram i r t := by
  cases i with
  | rx => exact ⟨h.1, fun hu => hq (h.2 hu)⟩
  | _ => exact h

theorem AtProgram.of_inPosition (h : inPosition i r s) : AtProgram i r s := by
  cases i with
  | enc ext rtr dlc => exact h
  | dec => exact h
  | tx ext rtr dlc =>
    obtain ⟨hu, hk, -⟩ := h
    exact ⟨hu, hk⟩
  | rx =>
    obtain ⟨hu, -, hq, -⟩ := h
    exact ⟨hu, hq⟩
  | fadd hasMask =>
    obtain ⟨hu, hk, -⟩ := h
    exact ⟨hu, hk⟩
  | frem =>
    obtain ⟨hu, hk, -⟩ := h
    exact ⟨hu, hk⟩
  | fclr =>
    obtain ⟨hu, hk, -⟩ := h
    exact ⟨hu, hk⟩
  | fcnt =>
    obtain ⟨hu, hk, -⟩ := h
    exact ⟨hu, hk⟩

/-! ### Every micro-step answers -/

/-- The micro-step answers a next state. -/
def Answers (o : Out) : Prop := ∃ t, o = .next t

theorem Answers.of_eq {o : Out} (h : o = .next t) : Answers o := ⟨t, h⟩

theorem scanOn_answers (s : State) (r : Run) (n upc : Nat) (done : State) : Answers (scanOn s r n upc done) := by
  by_cases hk : r.k < n - 1
  · exact .of_eq (scanOn_of_lt done hk)
  · exact .of_eq (scanOn_of_not_lt done hk)

section answers
variable (hr : s.seq = .run r) (hs : r.stopped = false)
include hr hs

theorem exec_enc_answers (h : AtProgram (.enc ext rtr dlc) r s) : Answers (exec (.enc ext rtr dlc) s) := by
  cases hwf : wellFormedFrame (frameOperand ext rtr dlc r.arg) with
  | true => exact .of_eq (exec_enc_of_wellFormed ⟨hr, hs, h⟩ hwf)
  | false => exact .of_eq (exec_enc_of_illFormed ⟨hr, hs, h⟩ hwf)

theorem exec_dec_answers (h : AtProgram .dec r s) : Answers (exec .dec s) := by
  cases hf : decodeFrame (wordsOperand r.arg) with
  | some f => exact .of_eq (exec_dec_of_some ⟨hr, hs, h⟩ hf)
  | none => exact .of_eq (exec_dec_of_none ⟨hr, hs, h⟩ hf)

theorem exec_tx_answers (h : AtProgram (.tx ext rtr dlc) r s) : Answers (exec (.tx ext rtr dlc) s) := by
  obtain ⟨hu, hk⟩ := h
  have hm : (⟨r.k, hk⟩ : Fin Config.numMailboxes).val = r.k := rfl
  have hat {n : Nat} (hn : r.upc = n) : s.atStep r n := ⟨hr, hs, hn⟩
  obtain hn | hn | hn | hn | hn | hn | hn : r.upc = 0 ∨ r.upc = 1 ∨ r.upc = 2 ∨ r.upc = 3 ∨ r.upc = 4 ∨ r.upc = 5 ∨
    r.upc = 6 := by omega
  · cases hwf : wellFormedFrame (frameOperand ext rtr dlc r.arg) with
    | true => exact .of_eq (exec_tx_of_wellFormed (hat hn) hwf)
    | false => exact .of_eq (exec_tx_of_illFormed (hat hn) hwf)
  · cases hq : s.txrq ⟨r.k, hk⟩ with
    | true => exact exec_tx_scan_of_busy (ext := ext) (rtr := rtr) (dlc := dlc) hm (hat hn) hq ▸ scanOn_answers ..
    | false => exact .of_eq (exec_tx_scan_of_free hm (hat hn) hq)
  · exact .of_eq (exec_tx_writeTir hm (hat hn))
  · exact .of_eq (exec_tx_writeDlc hm (hat hn))
  · exact .of_eq (exec_tx_writeTdlr hm (hat hn))
  · exact .of_eq (exec_tx_writeTdhr hm (hat hn))
  · exact .of_eq (exec_tx_writeTxrq hm (hat hn))

theorem exec_rx_answers (h : AtProgram .rx r s) : Answers (exec .rx s) := by
  obtain ⟨hu, hne⟩ := h
  have hat {n : Nat} (hn : r.upc = n) : s.atStep r n := ⟨hr, hs, hn⟩
  obtain hn | hn | hn : r.upc = 0 ∨ r.upc = 1 ∨ r.upc = 2 := by omega
  · by_cases hq : s.rxq = []
    · exact .of_eq (exec_rx_of_empty (hat hn) hq)
    · exact .of_eq (exec_rx_of_nonempty (hat hn) hq)
  · obtain ⟨e, q, hq⟩ := List.exists_cons_of_ne_nil (hne hn.ge)
    cases hf : decodeFrame e with
    | some f => exact .of_eq (exec_rx_decode_of_some (hat hn) hq hf)
    | none => exact .of_eq (exec_rx_decode_of_none (hat hn) hq hf)
  · exact .of_eq (exec_rx_release (hat hn))

theorem exec_fadd_answers (h : AtProgram (.fadd hasMask) r s) : Answers (exec (.fadd hasMask) s) := by
  obtain ⟨hu, hk⟩ := h
  have hb : (⟨r.k, hk⟩ : Fin Config.numBanks).val = r.k := rfl
  have hat {n : Nat} (hn : r.upc = n) : s.atStep r n := ⟨hr, hs, hn⟩
  obtain hn | hn | hn | hn | hn | hn | hn : r.upc = 0 ∨ r.upc = 1 ∨ r.upc = 2 ∨ r.upc = 3 ∨ r.upc = 4 ∨ r.upc = 5 ∨
    r.upc = 6 := by omega
  · cases hfound : s.lowestBank (Bank.holds r.arg.arg0) with
    | some j => exact .of_eq (exec_fadd_of_duplicate (hat hn) hfound)
    | none => exact .of_eq (exec_fadd_of_noDuplicate (hat hn) hfound)
  · cases hact : (s.bank ⟨r.k, hk⟩).act with
    | true => exact exec_fadd_scan_of_active (hasMask := hasMask) hb (hat hn) hact ▸ scanOn_answers ..
    | false => exact .of_eq (exec_fadd_scan_of_inactive hb (hat hn) hact)
  · exact .of_eq (exec_fadd_writeMsa hb (hat hn))
  · exact .of_eq (exec_fadd_writeMsb hb (hat hn))
  · exact .of_eq (exec_fadd_writeFid hb (hat hn))
  · exact .of_eq (exec_fadd_writeFmask hb (hat hn))
  · exact .of_eq (exec_fadd_writeAct hb (hat hn))

theorem exec_frem_answers (h : AtProgram .frem r s) : Answers (exec .frem s) := by
  obtain ⟨hu, hk⟩ := h
  have hb : (⟨r.k, hk⟩ : Fin Config.numBanks).val = r.k := rfl
  have hat {n : Nat} (hn : r.upc = n) : s.atStep r n := ⟨hr, hs, hn⟩
  obtain hn | hn | hn | hn : r.upc = 0 ∨ r.upc = 1 ∨ r.upc = 2 ∨ r.upc = 3 := by omega
  · exact .of_eq (exec_frem_start (hat hn))
  · cases hact : (s.bank ⟨r.k, hk⟩).act with
    | true => exact .of_eq (exec_frem_scan_of_active hb (hat hn) hact)
    | false => exact exec_frem_passOver hb (.inl ⟨hat hn, hact⟩) ▸ scanOn_answers ..
  · by_cases hfid : (s.bank ⟨r.k, hk⟩).fid = r.arg.arg0
    · exact .of_eq (exec_frem_compare_of_eq hb (hat hn) hfid)
    · exact exec_frem_passOver hb (.inr ⟨hat hn, hfid⟩) ▸ scanOn_answers ..
  · exact .of_eq (exec_frem_writeAct hb (hat hn))

theorem exec_fclr_answers (h : AtProgram .fclr r s) : Answers (exec .fclr s) := by
  obtain ⟨hu, hk⟩ := h
  exact exec_fclr (k := ⟨r.k, hk⟩) rfl ⟨hr, hs, hu⟩ ▸ scanOn_answers ..

theorem exec_fcnt_answers (h : AtProgram .fcnt r s) : Answers (exec .fcnt s) := by
  obtain ⟨hu, hk⟩ := h
  exact exec_fcnt (k := ⟨r.k, hk⟩) rfl ⟨hr, hs, hu⟩ rfl ▸ scanOn_answers ..

end answers

/-- No micro-step at a position of its program ends in a stop of the model. -/
theorem exec_answers (hr : s.seq = .run r) (h : AtProgram i r s) : Answers (exec i s) := by
  cases hs : r.stopped with
  | true => exact .of_eq (exec_of_stopped hr hs i)
  | false =>
    cases i with
    | enc ext rtr dlc => exact exec_enc_answers hr hs h
    | dec => exact exec_dec_answers hr hs h
    | tx ext rtr dlc => exact exec_tx_answers hr hs h
    | rx => exact exec_rx_answers hr hs h
    | fadd hasMask => exact exec_fadd_answers hr hs h
    | frem => exact exec_frem_answers hr hs h
    | fclr => exact exec_fclr_answers hr hs h
    | fcnt => exact exec_fcnt_answers hr hs h

/-! ### The micro-steps that remain -/

/-- How many micro-steps a command can still take from the position `r`, the one at `r` among them (R230). -/
def remaining (i : Instr) (r : Run) : Nat :=
  match i with
  | .enc _ _ _ => 1
  | .dec => 1
  | .tx _ _ _ =>
    match r.upc with
    | 0 => 9
    | 1 => 8 - r.k
    | u => 7 - u
  | .rx => 3 - r.upc
  | .fadd _ =>
    match r.upc with
    | 0 => 34
    | 1 => 33 - r.k
    | u => 7 - u
  | .frem =>
    match r.upc with
    | 0 => 58
    | 1 => 57 - 2 * r.k
    | 2 => 56 - 2 * r.k
    | _ => 1
  | .fclr => 28 - r.k
  | .fcnt => 28 - r.k

theorem remaining_issue (i : Instr) (w : Word) (a : Args) :
    remaining i { cmd := w, arg := a } = maxMicroSteps i.op := by cases i <;> rfl

/-- A command at a position of its program has a micro-step to take. -/
theorem remaining_pos (h : AtProgram i r s) : 0 < remaining i r := by
  cases i with
  | enc ext rtr dlc => exact Nat.one_pos
  | dec => exact Nat.one_pos
  | tx ext rtr dlc =>
    obtain ⟨hu, hk⟩ := h
    simp only [remaining, Config.numMailboxes] at *
    split <;> omega
  | rx =>
    obtain ⟨hu, -⟩ := h
    simp only [remaining]
    omega
  | fadd hasMask =>
    obtain ⟨hu, hk⟩ := h
    simp only [remaining, Config.numBanks] at *
    split <;> omega
  | frem =>
    obtain ⟨hu, hk⟩ := h
    simp only [remaining, Config.numBanks] at *
    split <;> omega
  | fclr =>
    obtain ⟨-, hk⟩ := h
    simp only [remaining, Config.numBanks] at *
    omega
  | fcnt =>
    obtain ⟨-, hk⟩ := h
    simp only [remaining, Config.numBanks] at *
    omega

/-- The command of `r` in `s` has ended or faulted in `t`, or goes on there with fewer micro-steps to take. -/
def Progress (i : Instr) (r : Run) (t : State) : Prop :=
  t.ended ∨ ∃ r', t.seq = .run r' ∧ r'.cmd = r.cmd ∧ r'.stopped = false ∧ AtProgram i r' t ∧
    remaining i r' < remaining i r

theorem Progress.of_idle (h : t.seq = .idle) : Progress i r t := by
  refine .inl ?_
  simp [State.ended, h]

theorem Progress.of_stopped (h : t.seq = .run r') (hs : r'.stopped = true) : Progress i r t := by
  refine .inl ?_
  simpa [State.ended, h] using hs

section progress
variable (hr : s.seq = .run r) (hs : r.stopped = false)
include hr hs

theorem execEnc_progress (h : execEnc ext rtr dlc s = .next t) : Progress (.enc ext rtr dlc) r t := by
  obtain ⟨q, hq, hcase⟩ := execEnc_next h
  obtain rfl : q = r := by simpa [hq] using hr
  obtain ⟨hstop, -⟩ | ⟨-, -, ⟨-, rfl⟩ | ⟨-, rfl⟩⟩ := hcase
  · simp [hs] at hstop
  · exact .of_idle rfl
  · exact .of_stopped rfl rfl

theorem execDec_progress (h : execDec s = .next t) : Progress .dec r t := by
  obtain ⟨q, hq, hcase⟩ := execDec_next h
  obtain rfl : q = r := by simpa [hq] using hr
  obtain ⟨hstop, -⟩ | ⟨-, -, ⟨f, -, rfl⟩ | ⟨-, rfl⟩⟩ := hcase
  · simp [hs] at hstop
  · exact .of_idle rfl
  · exact .of_stopped rfl rfl

theorem execTx_progress (hat : AtProgram (.tx ext rtr dlc) r s) (h : execTx ext rtr dlc s = .next t) :
    Progress (.tx ext rtr dlc) r t := by
  obtain ⟨-, hk⟩ := hat
  obtain ⟨q, hq, hcase⟩ := execTx_next h
  obtain rfl : q = r := by simpa [hq] using hr
  have goesOn {q' : Run} (hq' : t.seq = .run q') (hcmd : q'.cmd = q.cmd) (hs' : q'.stopped = q.stopped)
      (hu' : q'.upc ≤ 6) (hk' : q'.k < 3) (hless : remaining (.tx ext rtr dlc) q' < remaining (.tx ext rtr dlc) q) :
      Progress (.tx ext rtr dlc) q t := .inr ⟨q', hq', hcmd, hs'.trans hs, ⟨hu', hk'⟩, hless⟩
  simp only [Config.numMailboxes] at hk
  obtain ⟨hstop, -⟩ | ⟨-, ⟨hu, -, rfl⟩ | ⟨-, -, rfl⟩ | ⟨m, -, hscan⟩⟩ := hcase
  · simp [hs] at hstop
  · exact goesOn rfl rfl rfl (by simp) (by simp) (by simp [remaining, hu])
  · exact .of_stopped rfl rfl
  · obtain ⟨hu, -, hlt, rfl⟩ | ⟨-, -, -, rfl⟩ | ⟨hu, -, rfl⟩ | ⟨hu, rfl⟩ | ⟨hu, rfl⟩ | ⟨hu, rfl⟩ | ⟨hu, rfl⟩ | ⟨-, rfl⟩ :=
      hscan
    · refine goesOn rfl rfl rfl (by simp) (Nat.add_lt_of_lt_sub hlt) ?_
      simp only [remaining, hu]
      omega
    · exact .of_idle rfl
    · refine goesOn rfl rfl rfl (by simp) hk ?_
      simp only [remaining, hu]
      omega
    · exact goesOn rfl rfl rfl (by simp) hk (by simp [remaining, hu])
    · exact goesOn rfl rfl rfl (by simp) hk (by simp [remaining, hu])
    · exact goesOn rfl rfl rfl (by simp) hk (by simp [remaining, hu])
    · exact goesOn rfl rfl rfl (by simp) hk (by simp [remaining, hu])
    · exact .of_idle rfl

theorem execRx_progress (h : execRx s = .next t) : Progress .rx r t := by
  obtain ⟨p, hp, hcase⟩ := execRx_next h
  obtain rfl : p = r := by simpa [hp] using hr
  obtain ⟨hstop, -⟩ | ⟨-, ⟨-, -, rfl⟩ | ⟨hu, hne, rfl⟩ | ⟨e, q, -, -, -, rfl⟩ | ⟨e, q, f, hu, hq, -, rfl⟩ | ⟨-, rfl⟩⟩ :=
    hcase
  · simp [hs] at hstop
  · exact .of_idle rfl
  · exact .inr ⟨_, rfl, rfl, hs, ⟨by simp, fun _ => hne⟩, by simp [remaining, hu]⟩
  · exact .of_stopped rfl rfl
  · exact .inr ⟨_, rfl, rfl, hs, ⟨by simp, fun _ => by simp [hq]⟩, by simp [remaining, hu]⟩
  · exact .of_idle rfl

theorem execFadd_progress (hat : AtProgram (.fadd hasMask) r s) (h : execFadd hasMask s = .next t) :
    Progress (.fadd hasMask) r t := by
  obtain ⟨-, hk⟩ := hat
  obtain ⟨q, hq, hcase⟩ := execFadd_next h
  obtain rfl : q = r := by simpa [hq] using hr
  have goesOn {q' : Run} (hq' : t.seq = .run q') (hcmd : q'.cmd = q.cmd) (hs' : q'.stopped = q.stopped)
      (hu' : q'.upc ≤ 6) (hk' : q'.k < 28) (hless : remaining (.fadd hasMask) q' < remaining (.fadd hasMask) q) :
      Progress (.fadd hasMask) q t := .inr ⟨q', hq', hcmd, hs'.trans hs, ⟨hu', hk'⟩, hless⟩
  simp only [Config.numBanks] at hk
  obtain ⟨hstop, -⟩ | ⟨-, ⟨j, -, -, rfl⟩ | ⟨hu, -, rfl⟩ | ⟨m, -, hscan⟩⟩ := hcase
  · simp [hs] at hstop
  · exact .of_stopped rfl rfl
  · exact goesOn rfl rfl rfl (by simp) (by simp) (by simp [remaining, hu])
  · obtain ⟨hu, -, hlt, rfl⟩ | ⟨-, -, -, rfl⟩ | ⟨hu, -, rfl⟩ | ⟨hu, rfl⟩ | ⟨hu, rfl⟩ | ⟨hu, rfl⟩ | ⟨hu, rfl⟩ | ⟨-, rfl⟩ :=
      hscan
    · refine goesOn rfl rfl rfl (by simp) (Nat.add_lt_of_lt_sub hlt) ?_
      simp only [remaining, hu]
      omega
    · exact .of_idle rfl
    · refine goesOn rfl rfl rfl (by simp) hk ?_
      simp only [remaining, hu]
      omega
    · exact goesOn rfl rfl rfl (by simp) hk (by simp [remaining, hu])
    · exact goesOn rfl rfl rfl (by simp) hk (by simp [remaining, hu])
    · exact goesOn rfl rfl rfl (by simp) hk (by simp [remaining, hu])
    · exact goesOn rfl rfl rfl (by simp) hk (by simp [remaining, hu])
    · exact .of_idle rfl

theorem execFrem_progress (hat : AtProgram .frem r s) (h : execFrem s = .next t) : Progress .frem r t := by
  obtain ⟨-, hk⟩ := hat
  obtain ⟨q, hq, hcase⟩ := execFrem_next h
  obtain rfl : q = r := by simpa [hq] using hr
  simp only [Config.numBanks] at hk
  obtain ⟨hstop, -⟩ | ⟨-, ⟨hu, rfl⟩ | ⟨m, -, hscan⟩⟩ := hcase
  · simp [hs] at hstop
  · exact .inr ⟨_, rfl, rfl, hs, ⟨by simp, by simp⟩, by simp [remaining, hu]⟩
  · obtain ⟨hu, -, rfl⟩ | ⟨hu, -, rfl⟩ | ⟨hpass, hlt, rfl⟩ | ⟨-, -, rfl⟩ | ⟨-, rfl⟩ := hscan
    · refine .inr ⟨_, rfl, rfl, hs, ⟨by simp, hk⟩, ?_⟩
      simp only [remaining, hu]
      omega
    · refine .inr ⟨_, rfl, rfl, hs, ⟨by simp, hk⟩, ?_⟩
      simp only [remaining, hu]
      omega
    · have hu : q.upc = 1 ∨ q.upc = 2 := hpass.imp And.left And.left
      refine .inr ⟨_, rfl, rfl, hs, ⟨by simp, Nat.add_lt_of_lt_sub hlt⟩, ?_⟩
      obtain hu | hu := hu <;> simp only [remaining, hu] <;> omega
    · exact .of_idle rfl
    · exact .of_idle rfl

theorem execFclr_progress (h : execFclr s = .next t) : Progress .fclr r t := by
  obtain ⟨q, hq, hcase⟩ := execFclr_next h
  obtain rfl : q = r := by simpa [hq] using hr
  obtain ⟨hstop, -⟩ | ⟨-, -, k, -, ⟨hlt, rfl⟩ | ⟨-, rfl⟩⟩ := hcase
  · simp [hs] at hstop
  · refine .inr ⟨_, rfl, rfl, hs, ⟨rfl, Nat.add_lt_of_lt_sub hlt⟩, ?_⟩
    simp only [remaining]
    omega
  · exact .of_idle rfl

theorem execFcnt_progress (h : execFcnt s = .next t) : Progress .fcnt r t := by
  obtain ⟨q, hq, hcase⟩ := execFcnt_next h
  obtain rfl : q = r := by simpa [hq] using hr
  obtain ⟨hstop, -⟩ | ⟨-, -, k, -, c, -, ⟨hlt, rfl⟩ | ⟨-, rfl⟩⟩ := hcase
  · simp [hs] at hstop
  · refine .inr ⟨_, rfl, rfl, hs, ⟨rfl, Nat.add_lt_of_lt_sub hlt⟩, ?_⟩
    simp only [remaining]
    omega
  · exact .of_idle rfl

/-- A micro-step ends its command, faults, or leaves fewer to take. -/
theorem exec_progress (hat : AtProgram i r s) (h : exec i s = .next t) : Progress i r t := by
  cases i with
  | enc ext rtr dlc => exact execEnc_progress hr hs h
  | dec => exact execDec_progress hr hs h
  | tx ext rtr dlc => exact execTx_progress hr hs hat h
  | rx => exact execRx_progress hr hs h
  | fadd hasMask => exact execFadd_progress hr hs hat h
  | frem => exact execFrem_progress hr hs hat h
  | fclr => exact execFclr_progress hr hs h
  | fcnt => exact execFcnt_progress hr hs h

end progress

/-! ### The turns of the other agents -/

theorem enqueue_ne_nil {p : Params} {q : List FrameWords} (w : FrameWords) (h : q ≠ []) : enqueue p q w ≠ [] := by
  unfold enqueue
  split
  · simp
  · split
    · exact h
    · simp

theorem rxArrive_rxq_ne_nil (w : FrameWords) (h : s.rxq ≠ []) : (s.rxArrive w).rxq ≠ [] := by
  unfold State.rxArrive
  split
  · exact enqueue_ne_nil w h
  · exact h

@[simp] theorem txDone_seq (s : State) (m : Fin Config.numMailboxes) : (s.txDone m).seq = s.seq := by
  unfold State.txDone
  split <;> rfl

@[simp] theorem txDone_rxq (s : State) (m : Fin Config.numMailboxes) : (s.txDone m).rxq = s.rxq := by
  unfold State.txDone
  split <;> rfl

@[simp] theorem txDone_sched (s : State) (m : Fin Config.numMailboxes) : (s.txDone m).sched = s.sched := by
  unfold State.txDone
  split <;> rfl

@[simp] theorem rxArrive_seq (s : State) (w : FrameWords) : (s.rxArrive w).seq = s.seq := by
  unfold State.rxArrive
  split <;> rfl

@[simp] theorem rxArrive_sched (s : State) (w : FrameWords) : (s.rxArrive w).sched = s.sched := by
  unfold State.rxArrive
  split <;> rfl

/-- A turn of another agent but a reset leaves a command in progress at its position. -/
theorem runEvent_keeps_command {e : Event} (hseq : e ≠ .seq) (hreset : e ≠ .reset) (hr : s.seq = .run r)
    (hat : AtProgram i r s) : ∃ t, runEvent e s = .next t ∧ t.seq = .run r ∧ AtProgram i r t ∧ t.sched = s.sched := by
  cases e with
  | seq => exact absurd rfl hseq
  | hostWriteArg j v => exact ⟨_, rfl, hr, hat.of_rxq id, rfl⟩
  | hostWriteCmd w => exact ⟨s.refuse, by simp [runEvent, hostWriteCmd_of_run hr], hr, hat.of_rxq id, rfl⟩
  | hostWriteTme m v => exact ⟨_, rfl, hr, hat, rfl⟩
  | hostRead reg => exact ⟨_, rfl, hr, hat.of_rxq id, rfl⟩
  | txDone m => exact ⟨_, rfl, by simpa using hr, hat.of_rxq (by simp), by simp⟩
  | rxArrive w => exact ⟨_, rfl, by simpa using hr, hat.of_rxq (rxArrive_rxq_ne_nil w), by simp⟩
  | reset => exact absurd rfl hreset

/-! ### A command ends -/

/-- With `turns` planned a command in progress ends, or faults, at one of SEQ's next `remaining` turns, if that many are
planned and none is a reset. -/
theorem command_ends {turns : List Event} (hreset : .reset ∉ turns) (hsched : s.sched = turns) (hr : s.seq = .run r)
    (hs : r.stopped = false) (hd : decode r.cmd = .ok i) (hat : AtProgram i r s)
    (hcount : remaining i r ≤ turns.count .seq) :
    ∃ n t, n ≤ turns.length ∧ (turns.take n).count .seq ≤ remaining i r ∧ runSteps n s = .next t ∧ t.ended := by
  induction turns generalizing s r with
  | nil => exact absurd (hcount.trans_eq List.count_nil) (remaining_pos hat).not_ge
  | cons e rest ih =>
    obtain ⟨hne, hrest⟩ := not_or.1 (List.mem_cons.not.1 hreset)
    have hstep : step s = runEvent e { s with sched := rest } := step_cons hsched
    have hat' : AtProgram i r { s with sched := rest } := hat.of_rxq id
    by_cases he : e = .seq
    · subst he
      obtain ⟨t, ht⟩ := exec_answers (s := { s with sched := rest }) hr hat'
      have hnext : step s = .next t := (hstep.trans (seqTurn_run hr hd)).trans ht
      have hplan : t.sched = rest := by rw [exec_frame ht]
      obtain hend | ⟨r', hr', hcmd, hs', hat'', hless⟩ := exec_progress (s := { s with sched := rest }) hr hs hat' ht
      · have hone : 1 ≤ remaining i r := remaining_pos hat
        exact ⟨1, t, by simp, by simpa using hone, by simp [runSteps, hnext], hend⟩
      · rw [List.count_cons_self] at hcount
        obtain ⟨n, u, hn, hle, hrun, hend⟩ := ih hrest hplan hr' hs' (hcmd ▸ hd) hat'' (by omega)
        refine ⟨n + 1, u, Nat.succ_le_succ hn, ?_, (runSteps_succ hnext).trans hrun, hend⟩
        rw [List.take_succ_cons, List.count_cons_self]
        omega
    · obtain ⟨t, ht, hr', hat'', hplan⟩ := runEvent_keeps_command he (Ne.symm hne) (s := { s with sched := rest }) hr hat'
      have hnext : step s = .next t := hstep.trans ht
      rw [List.count_cons_of_ne he] at hcount
      obtain ⟨n, u, hn, hle, hrun, hend⟩ := ih hrest hplan hr' hs hd hat'' hcount
      refine ⟨n + 1, u, Nat.succ_le_succ hn, ?_, (runSteps_succ hnext).trans hrun, hend⟩
      rw [List.take_succ_cons, List.count_cons_of_ne he]
      exact hle

/-- Settles O59: a command just issued is at its first micro-step, from which the bound of R230 remains. -/
theorem everyCommandEnds : Obligations.EveryCommandEnds := by
  intro s w i turns hd hreset hcount
  have hrem : remaining i { cmd := w, arg := s.arg } = maxMicroSteps i.op := remaining_issue i w s.arg
  rw [← hrem] at hcount ⊢
  exact command_ends (s := { s.issue w with sched := turns }) hreset rfl rfl rfl hd (atProgram_issue i w s.arg _) hcount

end Sys2Proof.Machine

/-!
The invariant (R21, R30, R147, R150): each command keeps SEQ at a position of its program, no turn spoils the active
banks, the FIFO or the set FAULTS, and so every step from a state with `Inv` answers a state with `Inv`.
-/

namespace Sys2Proof.Machine

variable {s t u : State} {r r' : Run} {i : Instr} {ext rtr hasMask : Bool} {dlc : Nat}

/-! ### RSP -/

theorem RspMove.legal {v w : Word} (h : RspMove v w) (hv : rspLegal v) : rspLegal w := by
  obtain ⟨hreserved, hecode, hst⟩ := hv
  cases h with
  | kept => exact ⟨hreserved, hecode, hst⟩
  | issued => exact ⟨by simpa using hreserved, by simpa using hecode, by simpa using hst⟩
  | @responded st hne =>
    refine ⟨by simpa using hreserved, by simp [hne], ?_⟩
    cases st with
    | ok => simp [Status.code]
    | retryLater => simp [Status.code]
    | error => exact absurd rfl hne
  | cleared => exact ⟨by decide, by decide, by decide⟩

/-! ### The position of TX -/

/-- What TX has written of its mailbox when it is at `upc`: the mailbox is Free, and holds the first `upc - 2` words. -/
def TxWritten (upc : Nat) (w : FrameWords) (b : Mailbox) : Prop :=
  (2 ≤ upc → b.txrq = false) ∧ (3 ≤ upc → b.tir = w.idw) ∧ (4 ≤ upc → b.dlc = w.dlw.extractLsb' 0 4) ∧
  (5 ≤ upc → b.tdlr = w.dl) ∧ (6 ≤ upc → b.tdhr = w.dh)

theorem TxWritten.of_lt {upc : Nat} (h : upc < 2) (w : FrameWords) (b : Mailbox) : TxWritten upc w b :=
  ⟨fun h' => by omega, fun h' => by omega, fun h' => by omega, fun h' => by omega, fun h' => by omega⟩

section txWrites
variable {w : FrameWords} {b : Mailbox}

theorem txWritten_two (h : b.txrq = false) : TxWritten 2 w b :=
  ⟨fun _ => h, fun h' => by omega, fun h' => by omega, fun h' => by omega, fun h' => by omega⟩

/-- The write of TIR leaves the mailbox Free, as bit 0 of an encoded ID word is 0. -/
theorem TxWritten.writeTir (hzero : w.idw.getLsbD 0 = false) : TxWritten 3 w { b with tir := w.idw } :=
  ⟨fun _ => hzero, fun _ => rfl, fun h' => by omega, fun h' => by omega, fun h' => by omega⟩

theorem TxWritten.writeDlc (h : TxWritten 3 w b) : TxWritten 4 w (b.withDlc (w.dlw.extractLsb' 0 4)) := by
  obtain ⟨hfree, htir, -⟩ := h
  exact ⟨fun _ => hfree (by omega), fun _ => htir (by omega), fun _ => Mailbox.dlc_withDlc _ _, fun h' => by omega,
    fun h' => by omega⟩

theorem TxWritten.writeTdlr (h : TxWritten 4 w b) : TxWritten 5 w { b with tdlr := w.dl } := by
  obtain ⟨hfree, htir, hdlc, -⟩ := h
  exact ⟨fun _ => hfree (by omega), fun _ => htir (by omega), fun _ => hdlc (by omega), fun _ => rfl,
    fun h' => by omega⟩

theorem TxWritten.writeTdhr (h : TxWritten 5 w b) : TxWritten 6 w { b with tdhr := w.dh } := by
  obtain ⟨hfree, htir, hdlc, htdlr, -⟩ := h
  exact ⟨fun _ => hfree (by omega), fun _ => htir (by omega), fun _ => hdlc (by omega), fun _ => htdlr (by omega),
    fun _ => rfl⟩

end txWrites

theorem txPosition_iff : txPosition ext rtr dlc r s ↔
    r.upc ≤ 6 ∧ r.k < Config.numMailboxes ∧ (r.stopped = true → r.upc = 0) ∧
    (1 ≤ r.upc → wellFormedFrame (frameOperand ext rtr dlc r.arg) = true ∧
      r.snap.w = encodeFrame (frameOperand ext rtr dlc r.arg)) ∧
    ∀ m : Fin Config.numMailboxes, m.val = r.k →
      TxWritten r.upc (encodeFrame (frameOperand ext rtr dlc r.arg)) (s.mailbox m) := Iff.rfl

/-- Bit 0 of the ID word of a well-formed frame is 0 (R71, R72). -/
theorem getLsbD_zero_encodeFrame {f : LogicalFrame} (hwf : wellFormedFrame f = true) :
    (encodeFrame f).idw.getLsbD 0 = false := (lowBits_encodeId (wellFormedFrame_iff.1 hwf).1).2.2

/-- TX's position after a micro-step that made `b` of the mailbox `m` at hand. -/
theorem txPosition_next {m : Fin Config.numMailboxes} {b : Mailbox} {n : Nat} (hpos : txPosition ext rtr dlc r s)
    (hm : m.val = r.k) (hs : r.stopped = false) (hu : 1 ≤ r.upc) (hn : n ≤ 6) (hwritten : TxWritten n r.snap.w b)
    (hb : t.mailbox m = b) : txPosition ext rtr dlc { r with upc := n } t := by
  obtain ⟨-, hk, -, hframe, -⟩ := hpos
  obtain ⟨hwf, hw⟩ := hframe hu
  refine ⟨hn, hk, fun h => by simp [hs] at h, fun _ => ⟨hwf, hw⟩, fun j hj => ?_⟩
  obtain rfl : j = m := Fin.ext (hj.trans hm.symm)
  rw [hw, ← hb] at hwritten
  exact hwritten

theorem execTx_position (hr : s.seq = .run r) (hpos : txPosition ext rtr dlc r s) (h : execTx ext rtr dlc s = .next t)
    (hr' : t.seq = .run r') : txPosition ext rtr dlc r' t := by
  have hpos' := hpos
  obtain ⟨hle, hk, hstopped, hframe, hwritten⟩ := hpos
  obtain ⟨q, hq, hcase⟩ := execTx_next h
  obtain rfl : q = r := by simpa [hq] using hr
  obtain ⟨-, rfl⟩ | ⟨hs, ⟨-, hwf, rfl⟩ | ⟨hu, -, rfl⟩ | ⟨m, hm, hscan⟩⟩ := hcase
  · obtain rfl : q = r' := by simpa [hq] using hr'
    exact hpos'
  · cases hr'
    exact ⟨by simp, by simp, fun h => by simp [hs] at h, fun _ => ⟨hwf, rfl⟩, fun m _ => TxWritten.of_lt (by simp) _ _⟩
  · cases hr'
    exact ⟨hle, hk, fun _ => hu, hframe, hwritten⟩
  · have hself {n : Nat} (hn : q.upc = n) (hu : 1 ≤ q.upc) : TxWritten n q.snap.w (s.mailbox m) := by
      rw [(hframe hu).2, ← hn]
      exact hwritten m hm
    obtain ⟨hu, -, hlt, rfl⟩ | ⟨-, -, -, rfl⟩ | ⟨hu, hfree, rfl⟩ | ⟨hu, rfl⟩ | ⟨hu, rfl⟩ | ⟨hu, rfl⟩ | ⟨hu, rfl⟩ |
      ⟨-, rfl⟩ := hscan
    · cases hr'
      exact ⟨by simp, Nat.add_lt_of_lt_sub hlt, fun h => by simp [hs] at h, fun _ => hframe hu.ge,
        fun m _ => TxWritten.of_lt (by simp) _ _⟩
    · cases hr'
    · cases hr'
      exact txPosition_next hpos' hm hs (by omega) (by omega) (txWritten_two hfree) rfl
    · cases hr'
      obtain ⟨hwf, hw⟩ := hframe (by omega)
      have hzero : q.snap.w.idw.getLsbD 0 = false := hw ▸ getLsbD_zero_encodeFrame hwf
      exact txPosition_next hpos' hm hs (by omega) (by omega) (.writeTir hzero) (mailbox_of_txmb_eq_upd rfl)
    · cases hr'
      exact txPosition_next hpos' hm hs (by omega) (by omega) (hself hu (by omega)).writeDlc
        (mailbox_of_txmb_eq_upd rfl)
    · cases hr'
      exact txPosition_next hpos' hm hs (by omega) (by omega) (hself hu (by omega)).writeTdlr
        (mailbox_of_txmb_eq_upd rfl)
    · cases hr'
      exact txPosition_next hpos' hm hs (by omega) (by omega) (hself hu (by omega)).writeTdhr
        (mailbox_of_txmb_eq_upd rfl)
    · cases hr'

/-! ### The position of RX -/

theorem execRx_position (hr : s.seq = .run r) (hpos : rxPosition r s) (h : execRx s = .next t)
    (hr' : t.seq = .run r') : rxPosition r' t := by
  obtain ⟨p, hp, hcase⟩ := execRx_next h
  obtain rfl : p = r := by simpa [hp] using hr
  obtain ⟨-, rfl⟩ | ⟨hs, ⟨-, -, rfl⟩ | ⟨-, hne, rfl⟩ | ⟨e, q, hu, hq, -, rfl⟩ | ⟨e, q, f, -, hq, hf, rfl⟩ | ⟨-, rfl⟩⟩ :=
    hcase
  · obtain rfl : p = r' := by simpa [hp] using hr'
    exact hpos
  · cases hr'
  · cases hr'
    exact ⟨by simp, fun h => by simp [hs] at h, fun _ => hne, fun h => by simp at h⟩
  · cases hr'
    exact ⟨by simp [hu], fun _ => hu, fun _ => by simp [hq], fun h => by simp [hu] at h⟩
  · cases hr'
    exact ⟨by simp, fun h => by simp [hs] at h, fun _ => by simp [hq], fun _ => ⟨hf, .inl (by simp [hq])⟩⟩
  · cases hr'

/-- An arrival keeps the head of a FIFO that is not empty, or the FIFO has one entry and OverwriteLast replaced it
(R170). -/
theorem head?_enqueue {p : Params} {q : List FrameWords} (w : FrameWords) (hfits : q.length ≤ p.rxDepth) (hne : q ≠ []) :
    (enqueue p q w).head? = q.head? ∨ (p.rxDepth = 1 ∧ p.rxOverrun = .overwriteLast) := by
  obtain ⟨e, q, rfl⟩ := List.exists_cons_of_ne_nil hne
  by_cases hlt : (e :: q).length < p.rxDepth
  · rw [enqueue_of_lt hlt]
    exact .inl rfl
  · have hfull : p.rxDepth ≤ (e :: q).length := not_lt.1 hlt
    cases ho : p.rxOverrun with
    | discardNew => exact .inl (congrArg _ (enqueue_of_full_discardNew hfull ho))
    | overwriteLast =>
      rw [enqueue_of_full_overwriteLast hfull ho]
      cases q with
      | nil => exact .inr ⟨Nat.le_antisymm hfull hfits, rfl⟩
      | cons e' q => exact .inl rfl

theorem length_enqueue_le {p : Params} {q : List FrameWords} (w : FrameWords) (hdepth : 1 ≤ p.rxDepth)
    (hfits : q.length ≤ p.rxDepth) : (enqueue p q w).length ≤ p.rxDepth := by
  by_cases hlt : q.length < p.rxDepth
  · rw [enqueue_of_lt hlt, List.length_append]
    exact hlt
  · have hfull : p.rxDepth ≤ q.length := not_lt.1 hlt
    cases ho : p.rxOverrun with
    | discardNew => rwa [enqueue_of_full_discardNew hfull ho]
    | overwriteLast =>
      rw [enqueue_of_full_overwriteLast hfull ho, List.length_append, List.length_dropLast, List.length_singleton]
      omega

theorem rxPosition_enqueue (w : FrameWords) (hfits : s.rxq.length ≤ s.params.rxDepth) (hpos : rxPosition r s) :
    rxPosition r { s with rxq := enqueue s.params s.rxq w } := by
  obtain ⟨hu, hstopped, hne, hread⟩ := hpos
  refine ⟨hu, hstopped, fun h => enqueue_ne_nil w (hne h), fun h => ?_⟩
  obtain ⟨hf, hhead⟩ := hread h
  refine ⟨hf, ?_⟩
  obtain hkept | hone := head?_enqueue w hfits (hne (by omega))
  · exact hhead.imp_left fun he => hkept.trans he
  · exact .inr hone

/-! ### The position of FADD -/

/-- What FADD has written of its bank when it is at `upc`: the bank is inactive, and holds the first `upc - 2` fields. -/
def FaddWritten (upc : Nat) (p : Params) (flt : MessageFilter) (b : Bank) : Prop :=
  (2 ≤ upc → b.act = false) ∧ (3 ≤ upc → b.msa = p.modeselA) ∧ (4 ≤ upc → b.msb = p.modeselB) ∧
  (5 ≤ upc → b.fid = flt.identifier) ∧ (6 ≤ upc → b.fmask = filterMask flt)

section faddWrites
variable {upc : Nat} {p : Params} {flt : MessageFilter} {b : Bank}

theorem FaddWritten.of_lt (h : upc < 2) : FaddWritten upc p flt b :=
  ⟨fun h' => by omega, fun h' => by omega, fun h' => by omega, fun h' => by omega, fun h' => by omega⟩

theorem faddWritten_two (h : b.act = false) : FaddWritten 2 p flt b :=
  ⟨fun _ => h, fun h' => by omega, fun h' => by omega, fun h' => by omega, fun h' => by omega⟩

theorem FaddWritten.writeMsa (h : FaddWritten 2 p flt b) : FaddWritten 3 p flt { b with msa := p.modeselA } := by
  obtain ⟨hact, -⟩ := h
  exact ⟨fun _ => hact (by omega), fun _ => rfl, fun h' => by omega, fun h' => by omega, fun h' => by omega⟩

theorem FaddWritten.writeMsb (h : FaddWritten 3 p flt b) : FaddWritten 4 p flt { b with msb := p.modeselB } := by
  obtain ⟨hact, hmsa, -⟩ := h
  exact ⟨fun _ => hact (by omega), fun _ => hmsa (by omega), fun _ => rfl, fun h' => by omega, fun h' => by omega⟩

theorem FaddWritten.writeFid (h : FaddWritten 4 p flt b) : FaddWritten 5 p flt { b with fid := flt.identifier } := by
  obtain ⟨hact, hmsa, hmsb, -⟩ := h
  exact ⟨fun _ => hact (by omega), fun _ => hmsa (by omega), fun _ => hmsb (by omega), fun _ => rfl,
    fun h' => by omega⟩

theorem FaddWritten.writeFmask (h : FaddWritten 5 p flt b) : FaddWritten 6 p flt { b with fmask := filterMask flt } := by
  obtain ⟨hact, hmsa, hmsb, hfid, -⟩ := h
  exact ⟨fun _ => hact (by omega), fun _ => hmsa (by omega), fun _ => hmsb (by omega), fun _ => hfid (by omega),
    fun _ => rfl⟩

/-- The writes from upc 2 on leave the bank inactive, so it holds no identifier. -/
theorem FaddWritten.inactive (h : FaddWritten upc p flt b) (hu : 2 ≤ upc) : b.act = false := h.1 hu

end faddWrites

theorem Bank.holds_of_inactive {b : Bank} (h : b.act = false) (fid : Word) : b.holds fid = false := by
  simp [Bank.holds, h]

/-- FADD's position after a micro-step that made the inactive bank `b` of the bank `k` at hand. -/
theorem faddPosition_next {k : Fin Config.numBanks} {b : Bank} {n : Nat} (hpos : faddPosition hasMask r s)
    (hk : k.val = r.k) (hs : r.stopped = false) (hu : 1 ≤ r.upc) (hn2 : 2 ≤ n) (hn : n ≤ 6)
    (hwritten : FaddWritten n s.params (filterOperand hasMask r.arg) b) (hb : t.bank k = b) (honly : OnlyBank s t k)
    (hparams : t.params = s.params) : faddPosition hasMask { r with upc := n } t := by
  obtain ⟨-, hlt, -, hscanned, -⟩ := hpos
  obtain ⟨hnone, hbelow⟩ := hscanned hu
  rw [← hb, ← hparams] at hwritten
  refine ⟨hn, hlt, fun h => by simp [hs] at h, fun _ => ⟨fun j => ?_, fun j hj => ?_⟩, fun j hj => ?_⟩
  · by_cases hjk : j = k
    · exact Bank.holds_of_inactive (hjk ▸ hwritten.inactive hn2) _
    · exact honly j hjk ▸ hnone j
  · have hjk : j ≠ k := fun h => by simp [h, hk] at hj
    exact honly j hjk ▸ hbelow j hj
  · obtain rfl : j = k := Fin.ext (hj.trans hk.symm)
    exact hwritten

theorem execFadd_position (hr : s.seq = .run r) (hpos : faddPosition hasMask r s) (h : execFadd hasMask s = .next t)
    (hr' : t.seq = .run r') : faddPosition hasMask r' t := by
  have hpos' := hpos
  obtain ⟨hle, hk, hstopped, hscanned, hwritten⟩ := hpos
  obtain ⟨q, hq, hcase⟩ := execFadd_next h
  obtain rfl : q = r := by simpa [hq] using hr
  obtain ⟨-, rfl⟩ | ⟨hs, ⟨j, hu, -, rfl⟩ | ⟨-, hnone, rfl⟩ | ⟨k, hkval, hscan⟩⟩ := hcase
  · obtain rfl : q = r' := by simpa [hq] using hr'
    exact hpos'
  · cases hr'
    exact ⟨hle, hk, fun _ => hu, hscanned, hwritten⟩
  · cases hr'
    exact ⟨by simp, by simp, fun h => by simp [hs] at h,
      fun _ => ⟨State.lowestBank_none.1 hnone, fun j hj => by simp at hj⟩, fun _ _ => FaddWritten.of_lt (by simp)⟩
  · have hself {n : Nat} (hn : q.upc = n) : FaddWritten n s.params (filterOperand hasMask q.arg) (s.bank k) :=
      hn ▸ hwritten k hkval
    obtain ⟨hu, hact, hlt, rfl⟩ | ⟨-, -, -, rfl⟩ | ⟨hu, hact, rfl⟩ | ⟨hu, rfl⟩ | ⟨hu, rfl⟩ | ⟨hu, rfl⟩ | ⟨hu, rfl⟩ |
      ⟨-, rfl⟩ := hscan
    · cases hr'
      obtain ⟨hnone, hbelow⟩ := hscanned hu.ge
      refine ⟨by simp, Nat.add_lt_of_lt_sub hlt, fun h => by simp [hs] at h, fun _ => ⟨hnone, fun j hj => ?_⟩,
        fun _ _ => FaddWritten.of_lt (by simp)⟩
      obtain hj | hj := Nat.lt_succ_iff_lt_or_eq.1 hj
      · exact hbelow j hj
      · obtain rfl : j = k := Fin.ext (hj.trans hkval.symm)
        exact hact
    · cases hr'
    · cases hr'
      exact faddPosition_next hpos' hkval hs (by omega) (by omega) (by omega) (faddWritten_two hact) rfl
        (fun _ _ => rfl) rfl
    · cases hr'
      exact faddPosition_next hpos' hkval hs (by omega) (by omega) (by omega) (hself hu).writeMsa
        (bank_of_fb_eq_upd rfl) (onlyBank_of_fb_eq_upd rfl) rfl
    · cases hr'
      exact faddPosition_next hpos' hkval hs (by omega) (by omega) (by omega) (hself hu).writeMsb
        (bank_of_fb_eq_upd rfl) (onlyBank_of_fb_eq_upd rfl) rfl
    · cases hr'
      exact faddPosition_next hpos' hkval hs (by omega) (by omega) (by omega) (hself hu).writeFid
        (bank_of_fb_eq_upd rfl) (onlyBank_of_fb_eq_upd rfl) rfl
    · cases hr'
      exact faddPosition_next hpos' hkval hs (by omega) (by omega) (by omega) (hself hu).writeFmask
        (bank_of_fb_eq_upd rfl) (onlyBank_of_fb_eq_upd rfl) rfl
    · cases hr'

/-! ### The positions of FREM, FCLR and FCNT -/

theorem execFrem_position (hr : s.seq = .run r) (hpos : fremPosition r s) (h : execFrem s = .next t)
    (hr' : t.seq = .run r') : fremPosition r' t := by
  obtain ⟨-, hk, hs, hbelow, hbank⟩ := hpos
  obtain ⟨q, hq, hcase⟩ := execFrem_next h
  obtain rfl : q = r := by simpa [hq] using hr
  obtain ⟨hstop, -⟩ | ⟨-, ⟨-, rfl⟩ | ⟨k, hkval, hscan⟩⟩ := hcase
  · simp [hs] at hstop
  · cases hr'
    exact ⟨by simp, by simp, hs, fun _ j hj => by simp at hj, fun _ _ => ⟨fun h => by simp at h, fun h => by simp at h⟩⟩
  · have hthis {j : Fin Config.numBanks} (hj : j.val = q.k) : j = k := Fin.ext (hj.trans hkval.symm)
    obtain ⟨hu, hact, rfl⟩ | ⟨hu, hfid, rfl⟩ | ⟨hpass, hlt, rfl⟩ | ⟨-, -, rfl⟩ | ⟨-, rfl⟩ := hscan
    · cases hr'
      exact ⟨by simp, hk, hs, fun _ => hbelow hu.ge, fun j hj => ⟨fun _ => hthis hj ▸ hact, fun h => by simp at h⟩⟩
    · cases hr'
      refine ⟨by simp, hk, hs, fun _ => hbelow (by omega), fun j hj => ⟨fun _ => ?_, fun _ => hthis hj ▸ hfid⟩⟩
      exact (hbank j hj).1 hu.ge
    · cases hr'
      have hpassed : (s.bank k).holds q.arg.arg0 = false := by
        obtain ⟨-, hact⟩ | ⟨-, hfid⟩ := hpass
        · exact Bank.holds_of_inactive hact _
        · exact Bank.holds_eq_false_iff.2 fun ⟨_, h⟩ => hfid h
      have hu : 1 ≤ q.upc := by omega
      refine ⟨by simp, Nat.add_lt_of_lt_sub hlt, hs, fun _ j hj => ?_,
        fun _ _ => ⟨fun h => by simp at h, fun h => by simp at h⟩⟩
      obtain hj | hj := Nat.lt_succ_iff_lt_or_eq.1 hj
      · exact hbelow hu j hj
      · exact hthis hj ▸ hpassed
    · cases hr'
    · cases hr'

theorem execFclr_position (hr : s.seq = .run r) (hpos : fclrPosition r s) (h : execFclr s = .next t)
    (hr' : t.seq = .run r') : fclrPosition r' t := by
  obtain ⟨-, -, hs, hbelow⟩ := hpos
  obtain ⟨q, hq, hcase⟩ := execFclr_next h
  obtain rfl : q = r := by simpa [hq] using hr
  obtain ⟨hstop, -⟩ | ⟨-, -, k, hkval, ⟨hlt, rfl⟩ | ⟨-, rfl⟩⟩ := hcase
  · simp [hs] at hstop
  · cases hr'
    refine ⟨rfl, Nat.add_lt_of_lt_sub hlt, hs, fun j hj => ?_⟩
    obtain hj | hj := Nat.lt_succ_iff_lt_or_eq.1 hj
    · exact State.act_writeAct_false_of_inactive k (hbelow j hj)
    · obtain rfl : j = k := Fin.ext (hj.trans hkval.symm)
      rw [State.continueAt_bank, State.writeAct_eq, State.bank_updBank_self]
  · cases hr'

/-- FCNT's count is that of the inactive banks below the one at hand (R146). -/
theorem fcntPosition_iff : fcntPosition r s ↔
    r.upc = 0 ∧ r.k < Config.numBanks ∧ r.stopped = false ∧ r.snap.c = s.inactiveBelow r.k := Iff.rfl

theorem execFcnt_position (hr : s.seq = .run r) (hpos : fcntPosition r s) (h : execFcnt s = .next t)
    (hr' : t.seq = .run r') : fcntPosition r' t := by
  obtain ⟨-, -, hs, hcount⟩ := fcntPosition_iff.1 hpos
  obtain ⟨q, hq, hcase⟩ := execFcnt_next h
  obtain rfl : q = r := by simpa [hq] using hr
  obtain ⟨hstop, -⟩ | ⟨-, -, k, hkval, c, hc, ⟨hlt, rfl⟩ | ⟨-, rfl⟩⟩ := hcase
  · simp [hs] at hstop
  · cases hr'
    refine fcntPosition_iff.2 ⟨rfl, Nat.add_lt_of_lt_sub hlt, hs, ?_⟩
    have hnext := s.inactiveBelow_succ k
    rw [hkval, ← hcount] at hnext
    exact hc.trans hnext.symm
  · cases hr'

/-- A micro-step leaves SEQ Idle or at a position of its command's program. -/
theorem exec_inPosition (hr : s.seq = .run r) (hpos : inPosition i r s) (h : exec i s = .next t)
    (hr' : t.seq = .run r') : inPosition i r' t := by
  cases i with
  | enc ext rtr dlc =>
    obtain ⟨q, hq, ⟨-, rfl⟩ | ⟨-, hu, ⟨-, rfl⟩ | ⟨-, rfl⟩⟩⟩ := execEnc_next h
    · obtain rfl : r = r' := by simpa [hr] using hr'
      exact hpos
    · cases hr'
    · cases hr'
      exact hu
  | dec =>
    obtain ⟨q, hq, ⟨-, rfl⟩ | ⟨-, hu, ⟨f, -, rfl⟩ | ⟨-, rfl⟩⟩⟩ := execDec_next h
    · obtain rfl : r = r' := by simpa [hr] using hr'
      exact hpos
    · cases hr'
    · cases hr'
      exact hu
  | tx ext rtr dlc => exact execTx_position hr hpos h hr'
  | rx => exact execRx_position hr hpos h hr'
  | fadd hasMask => exact execFadd_position hr hpos h hr'
  | frem => exact execFrem_position hr hpos h hr'
  | fclr => exact execFclr_position hr hpos h hr'
  | fcnt => exact execFcnt_position hr hpos h hr'

/-! ### The active banks -/

/-- From `s` to `t` no bank became active, and every active bank stands as it was. -/
def NoNewActiveBank (s t : State) : Prop := ∀ k, (t.bank k).act = true → t.bank k = s.bank k

theorem NoNewActiveBank.of_fb_eq (h : t.fb = s.fb) : NoNewActiveBank s t := fun k _ => State.bank_congr s t h k

theorem NoNewActiveBank.unique (h : NoNewActiveBank s t) (hs : s.uniqueFilters) : t.uniqueFilters := by
  intro j k hj hk hfid
  have hbj := h j hj
  have hbk := h k hk
  rw [hbj] at hj hfid
  rw [hbk] at hk hfid
  exact hs j k hj hk hfid

theorem NoNewActiveBank.selected (h : NoNewActiveBank s t) (hparams : t.params = s.params) (hs : s.selectedBanks) :
    t.selectedBanks := by
  intro k hk
  have hbk := h k hk
  rw [hbk] at hk
  rw [hbk, hparams]
  exact hs k hk

/-- A command that changes nothing of a bank but its activation flag, and sets none. -/
theorem NoNewActiveBank.of_act (hbank : ∀ k, t.bank k = { s.bank k with act := (t.bank k).act })
    (hact : ∀ k, (s.bank k).act = false → (t.bank k).act = false) : NoNewActiveBank s t := by
  intro k hk
  have hs : (s.bank k).act = true := by
    by_contra hoff
    simp [hact k (by simpa using hoff)] at hk
  rw [hbank k, hk, ← hs]

/-- A write to an inactive bank that leaves it inactive. -/
theorem NoNewActiveBank.of_onlyBank {k : Fin Config.numBanks} (honly : OnlyBank s t k) (hact : (t.bank k).act = false) :
    NoNewActiveBank s t := by
  intro j hj
  by_cases hjk : j = k
  · simp [hjk, hact] at hj
  · exact honly j hjk

/-- FADD makes no bank active but the one at hand, at upc 6. -/
theorem execFadd_noNewActiveBank (hr : s.seq = .run r) (hpos : faddPosition hasMask r s)
    (h : execFadd hasMask s = .next t) :
    NoNewActiveBank s t ∨
      ∃ k : Fin Config.numBanks, k.val = r.k ∧ r.upc = 6 ∧ OnlyBank s t k ∧ t.bank k = { s.bank k with act := true } := by
  obtain ⟨-, -, -, -, hwritten⟩ := hpos
  obtain ⟨q, hq, hcase⟩ := execFadd_next h
  obtain rfl : q = r := by simpa [hq] using hr
  obtain ⟨-, rfl⟩ | ⟨-, ⟨j, -, -, rfl⟩ | ⟨-, -, rfl⟩ | ⟨k, hkval, hscan⟩⟩ := hcase
  · exact .inl (.of_fb_eq rfl)
  · exact .inl (.of_fb_eq rfl)
  · exact .inl (.of_fb_eq rfl)
  · have hinactive (hu : 2 ≤ q.upc) : (s.bank k).act = false := (hwritten k hkval).1 hu
    have hwrite {u : State} {b : Bank} (hu : 2 ≤ q.upc) (hb : b.act = (s.bank k).act)
        (hfb : u.fb = (s.updBank k fun _ => b).fb) : NoNewActiveBank s u := by
      refine .of_onlyBank (onlyBank_of_fb_eq_upd hfb) ?_
      rw [bank_of_fb_eq_upd hfb, hb, hinactive hu]
    obtain ⟨-, -, -, rfl⟩ | ⟨-, -, -, rfl⟩ | ⟨-, -, rfl⟩ | ⟨hu, rfl⟩ | ⟨hu, rfl⟩ | ⟨hu, rfl⟩ | ⟨hu, rfl⟩ | ⟨hu, rfl⟩ :=
      hscan
    · exact .inl (.of_fb_eq rfl)
    · exact .inl (.of_fb_eq rfl)
    · exact .inl (.of_fb_eq rfl)
    · exact .inl (hwrite (b := { s.bank k with msa := s.params.modeselA }) hu.ge rfl rfl)
    · exact .inl (hwrite (b := { s.bank k with msb := s.params.modeselB }) (by omega) rfl rfl)
    · exact .inl (hwrite (b := { s.bank k with fid := q.arg.arg0 }) (by omega) rfl rfl)
    · exact .inl (hwrite (b := { s.bank k with fmask := filterMask (filterOperand hasMask q.arg) }) (by omega) rfl rfl)
    · exact .inr ⟨k, hkval, hu, onlyBank_of_fb_eq_upd rfl, bank_of_fb_eq_upd rfl⟩

/-- The bank a FADD activates has an identifier that no active bank holds, and FADD's selection values. -/
theorem execFadd_keepsBanks (hr : s.seq = .run r) (hpos : faddPosition hasMask r s) (hunique : s.uniqueFilters)
    (hselected : s.selectedBanks) (h : execFadd hasMask s = .next t) : t.uniqueFilters ∧ t.selectedBanks := by
  have hparams : t.params = s.params := by rw [execFadd_frame h]
  obtain hkept | ⟨k, hkval, hu, honly, hbank⟩ := execFadd_noNewActiveBank hr hpos h
  · exact ⟨hkept.unique hunique, hkept.selected hparams hselected⟩
  obtain ⟨-, -, -, hscanned, hwritten⟩ := hpos
  obtain ⟨hnone, -⟩ := hscanned (by omega)
  obtain ⟨-, hmsa, hmsb, hfid, -⟩ := hwritten k hkval
  have hnew : (t.bank k).fid = r.arg.arg0 := hbank ▸ hfid (by omega)
  have hother {j : Fin Config.numBanks} (hj : j ≠ k) (hact : (t.bank j).act = true) :
      (s.bank j).act = true ∧ (t.bank j).fid ≠ r.arg.arg0 := by
    rw [honly j hj] at hact ⊢
    exact ⟨hact, fun hfid => Bank.holds_eq_false_iff.1 (hnone j) ⟨hact, hfid⟩⟩
  refine ⟨fun j l hj hl hfids => ?_, fun j hj => ?_⟩
  · by_cases hjk : j = k
    · by_cases hlk : l = k
      · exact hjk.trans hlk.symm
      · exact absurd (hfids.symm.trans (hjk ▸ hnew)) (hother hlk hl).2
    · by_cases hlk : l = k
      · exact absurd (hfids.trans (hlk ▸ hnew)) (hother hjk hj).2
      · rw [honly j hjk] at hj hfids
        rw [honly l hlk] at hl hfids
        exact hunique j l hj hl hfids
  · rw [hparams]
    by_cases hjk : j = k
    · rw [hjk, hbank]
      exact ⟨hmsa (by omega), hmsb (by omega)⟩
    · rw [honly j hjk] at hj ⊢
      exact hselected j hj

theorem exec_keepsBanks (hr : s.seq = .run r) (hpos : inPosition i r s) (hunique : s.uniqueFilters)
    (hselected : s.selectedBanks) (h : exec i s = .next t) : t.uniqueFilters ∧ t.selectedBanks := by
  have hparams : t.params = s.params := by rw [exec_frame h]
  have hkept (hno : NoNewActiveBank s t) : t.uniqueFilters ∧ t.selectedBanks :=
    ⟨hno.unique hunique, hno.selected hparams hselected⟩
  cases i with
  | enc ext rtr dlc => exact hkept (.of_fb_eq (execEnc_fb h))
  | dec => exact hkept (.of_fb_eq (execDec_fb h))
  | tx ext rtr dlc => exact hkept (.of_fb_eq (execTx_fb h))
  | rx => exact hkept (.of_fb_eq (execRx_fb h))
  | fadd hasMask => exact execFadd_keepsBanks hr hpos hunique hselected h
  | frem => exact hkept (.of_act (execFrem_bank h) fun _ hoff => execFrem_act_of_inactive hoff h)
  | fclr => exact hkept (.of_act (execFclr_bank h) fun _ hoff => execFclr_act_of_inactive hoff h)
  | fcnt => exact hkept (.of_fb_eq (execFcnt_fb h))

/-! ### The FIFO and FAULTS under a micro-step -/

theorem execRx_rxq (h : execRx s = .next t) : t.rxq = s.rxq ∨ t.rxq = s.rxq.tail := by
  obtain ⟨r, -, ⟨-, rfl⟩ | ⟨-, ⟨-, -, rfl⟩ | ⟨-, -, rfl⟩ | ⟨e, q, -, -, -, rfl⟩ | ⟨e, q, f, -, -, -, rfl⟩ | ⟨-, rfl⟩⟩⟩ :=
    execRx_next h
  · exact .inl rfl
  · exact .inl rfl
  · exact .inl rfl
  · exact .inl rfl
  · exact .inl rfl
  · exact .inr rfl

theorem length_rxq_exec_le (h : exec i s = .next t) : t.rxq.length ≤ s.rxq.length := by
  by_cases hi : i.op = .rx
  · cases i with
    | rx =>
      obtain hq | hq := execRx_rxq h
      · exact hq ▸ le_rfl
      · rw [hq, List.length_tail]
        exact Nat.sub_le _ _
    | _ => cases hi
  · exact (congrArg List.length (exec_rxq_of_ne_rx hi h)).le

/-! ### A turn of each agent, and a step -/

/-- Under `Inv` SEQ is Idle with PEND 0, or at a position of its command with PEND 1. -/
theorem seqSound_iff : s.seqSound ↔ (s.seq = .idle ∧ rspPend s.rsp = false) ∨
    ∃ r i, s.seq = .run r ∧ decode r.cmd = .ok i ∧ rspPend s.rsp = true ∧ inPosition i r s := by
  unfold State.seqSound
  cases hseq : s.seq with
  | idle => simp
  | run r => cases hd : decode r.cmd <;> simp [hd]

theorem exec_inv (hinv : Inv s) (hr : s.seq = .run r) (hd : decode r.cmd = .ok i) (h : exec i s = .next t) : Inv t := by
  have hpos := hinv.inPosition hr hd
  have hparams : t.params = s.params := by rw [exec_frame h]
  obtain ⟨hunique, hselected⟩ := exec_keepsBanks hr hpos hinv.unique hinv.selected h
  refine ⟨(exec_rspMove h).legal hinv.rsp, seqSound_iff.2 ?_, hparams ▸ hinv.depth,
    hparams ▸ (length_rxq_exec_le h).trans hinv.fifo, hunique, hselected, ?_⟩
  · cases exec_seqMove h with
    | ends st hst hidle hrsp hfaults => exact .inl ⟨hidle, by rw [hrsp, rspPend_rspRespond]⟩
    | goesOn q q' hq hq' hcmd harg hrsp hres hfaults =>
      obtain rfl : q = r := by simpa [hq] using hr
      obtain ⟨hidle, -⟩ | ⟨p, j, hp, -, hpend, -⟩ := seqSound_iff.1 hinv.seq
      · simp [hq] at hidle
      · exact .inr ⟨q', i, hq', hcmd ▸ hd, hrsp ▸ hpend, exec_inPosition hq hpos h hq'⟩
  · cases exec_seqMove h with
    | ends st hst hidle hrsp hfaults => exact hfaults ▸ hinv.faultSet
    | goesOn q q' hq hq' hcmd harg hrsp hres hfaults =>
      obtain hkept | ⟨rec, hrec⟩ := hfaults
      · exact hkept ▸ hinv.faultSet
      · exact hrec ▸ nodup_insertFault hinv.faultSet

/-- SEQ's turn answers a state with the invariant. -/
theorem seqTurn_inv (hinv : Inv s) : ∃ t, seqTurn s = .next t ∧ Inv t := by
  obtain ⟨hidle, -⟩ | ⟨r, i, hr, hd, -, hpos⟩ := seqSound_iff.1 hinv.seq
  · exact ⟨s, seqTurn_idle hidle, hinv⟩
  · obtain ⟨t, ht⟩ := exec_answers hr (.of_inPosition hpos)
    exact ⟨t, (seqTurn_run hr hd).trans ht, exec_inv hinv hr hd ht⟩

/-- A command just issued is at a position of its program. -/
theorem inPosition_issue (i : Instr) (w : Word) (a : Args) (s : State) : inPosition i { cmd := w, arg := a } s := by
  cases i with
  | enc ext rtr dlc => rfl
  | dec => rfl
  | tx ext rtr dlc => simp [inPosition, txPosition]
  | rx => simp [inPosition, rxPosition]
  | fadd hasMask => simp [inPosition, faddPosition]
  | frem => simp [inPosition, fremPosition]
  | fclr => simp [inPosition, fclrPosition]
  | fcnt => exact fcntPosition_iff.2 ⟨rfl, by simp, rfl, rfl⟩

theorem hostWriteCmd_inv (w : Word) (hinv : Inv s) : Inv (s.hostWriteCmd w) := by
  obtain ⟨hrsp, hseq, hdepth, hfifo, hunique, hselected, hfaults⟩ := hinv
  obtain ⟨hidle, -⟩ | ⟨r, i, hr, -, -, -⟩ := seqSound_iff.1 hseq
  · cases hd : decode w with
    | ok i =>
      rw [hostWriteCmd_of_legal hidle hd]
      refine ⟨RspMove.issued.legal hrsp, seqSound_iff.2 (.inr ⟨_, i, rfl, hd, by simp, inPosition_issue i w s.arg _⟩),
        hdepth, hfifo, hunique, hselected, hfaults⟩
    | error e =>
      rw [hostWriteCmd_of_illegal hidle (by simp [hd])]
      exact ⟨hrsp, hseq, hdepth, hfifo, hunique, hselected, hfaults⟩
  · rw [hostWriteCmd_of_run hr]
    exact ⟨hrsp, hseq, hdepth, hfifo, hunique, hselected, hfaults⟩

/-- A completion frees no mailbox that TX is programming: such a mailbox is Free already. -/
theorem inPosition_txDone {m : Fin Config.numMailboxes} (hbusy : s.txrq m = true) (hpos : inPosition i r s) :
    inPosition i r { s.writeTxrq m false with buslog := s.buslog ++ [(s.mailbox m).frameWords] } := by
  cases i with
  | tx ext rtr dlc =>
    obtain ⟨hu, hk, hstopped, hframe, hwritten⟩ := txPosition_iff.1 hpos
    refine txPosition_iff.2 ⟨hu, hk, hstopped, hframe, fun j hj => ?_⟩
    by_cases hu2 : r.upc < 2
    · exact .of_lt hu2 _ _
    · have hjm : j ≠ m := fun h => by
        have hfree : s.txrq m = false := h ▸ (hwritten j hj).1 (not_lt.1 hu2)
        simp [hfree] at hbusy
      have honly : OnlyMailbox s { s.writeTxrq m false with buslog := s.buslog ++ [(s.mailbox m).frameWords] } m :=
        onlyMailbox_of_txmb_eq_upd rfl
      rw [honly j hjm]
      exact hwritten j hj
  | _ => exact hpos

theorem txDone_inv (m : Fin Config.numMailboxes) (hinv : Inv s) : Inv (s.txDone m) := by
  cases hbusy : s.txrq m with
  | false => rwa [txDone_of_free hbusy]
  | true =>
    obtain ⟨hrsp, hseq, hdepth, hfifo, hunique, hselected, hfaults⟩ := hinv
    rw [State.txDone, if_pos hbusy]
    refine ⟨hrsp, seqSound_iff.2 ?_, hdepth, hfifo, hunique, hselected, hfaults⟩
    obtain hidle | ⟨r, i, hr, hd, hpend, hpos⟩ := seqSound_iff.1 hseq
    · exact .inl hidle
    · exact .inr ⟨r, i, hr, hd, hpend, inPosition_txDone hbusy hpos⟩

theorem rxArrive_inv (w : FrameWords) (hinv : Inv s) : Inv (s.rxArrive w) := by
  cases hacc : s.accepts w.idw with
  | false => rwa [State.rxArrive_of_rejected hacc]
  | true =>
    obtain ⟨hrsp, hseq, hdepth, hfifo, hunique, hselected, hfaults⟩ := hinv
    rw [State.rxArrive_of_accepted hacc rfl]
    refine ⟨hrsp, seqSound_iff.2 ?_, hdepth, length_enqueue_le w hdepth hfifo, hunique, hselected, hfaults⟩
    obtain hidle | ⟨r, i, hr, hd, hpend, hpos⟩ := seqSound_iff.1 hseq
    · exact .inl hidle
    · refine .inr ⟨r, i, hr, hd, hpend, ?_⟩
      cases i with
      | rx => exact rxPosition_enqueue w hfifo hpos
      | _ => exact hpos

/-- A block with no command in progress, no active bank and an empty FIFO. -/
theorem inv_of_empty (hseq : s.seq = .idle) (hrsp : s.rsp = 0) (hact : ∀ k, (s.bank k).act = false) (hq : s.rxq = [])
    (hdepth : 1 ≤ s.params.rxDepth) (hfaults : s.faults.Nodup) : Inv s where
  rsp := hrsp ▸ ⟨by decide, by decide, by decide⟩
  seq := seqSound_iff.2 (.inl ⟨hseq, hrsp ▸ by decide⟩)
  depth := hdepth
  fifo := by simp [hq]
  unique := fun j _ hj => by simp [hact j] at hj
  selected := fun k hk => by simp [hact k] at hk
  faultSet := hfaults

theorem resetBlock_inv (hinv : Inv s) : Inv s.resetBlock :=
  inv_of_empty rfl rfl (fun k => congrArg Bank.act (s.resetBlock_bank k)) rfl hinv.depth hinv.faultSet

/-- The block at the start of a model run (R8, R220). -/
theorem inv_reset {p : Params} (turns : List Event) (later : Later) (hdepth : 1 ≤ p.rxDepth) :
    Inv { State.reset with params := p, sched := turns, later := later } :=
  inv_of_empty rfl rfl (fun k => congrArg Bank.act (State.reset_bank k)) rfl hdepth List.nodup_nil

/-- Settles O57: at reset SEQ is Idle, the FIFO is empty and no bank is active. -/
theorem invariantAtReset : Obligations.InvariantAtReset :=
  ⟨inv_reset [] (.again []) (p := Config.defaultParams) (by decide), fun _ turns later => inv_reset turns later⟩

theorem runEvent_inv (e : Event) (hinv : Inv s) : ∃ t, runEvent e s = .next t ∧ Inv t := by
  cases e with
  | seq => exact seqTurn_inv hinv
  | hostWriteArg j v => exact ⟨_, rfl, hinv.rsp, hinv.seq, hinv.depth, hinv.fifo, hinv.unique, hinv.selected, hinv.faultSet⟩
  | hostWriteCmd w => exact ⟨_, rfl, hostWriteCmd_inv w hinv⟩
  | hostWriteTme m v => exact ⟨_, rfl, hinv⟩
  | hostRead reg => exact ⟨_, rfl, hinv.rsp, hinv.seq, hinv.depth, hinv.fifo, hinv.unique, hinv.selected, hinv.faultSet⟩
  | txDone m => exact ⟨_, rfl, txDone_inv m hinv⟩
  | rxArrive w => exact ⟨_, rfl, rxArrive_inv w hinv⟩
  | reset => exact ⟨_, rfl, resetBlock_inv hinv⟩

/-- Settles O58: the turn is taken from the plan, which `Inv` does not speak of, and the agent's event keeps `Inv`. -/
theorem invariantKeptByEveryStep : Obligations.InvariantKeptByEveryStep :=
  fun s hinv => runEvent_inv s.nextTurn hinv.takeTurn

theorem step_inv (hinv : Inv s) (h : step s = .next t) : Inv t := by
  obtain ⟨u, hu, hinvu⟩ := invariantKeptByEveryStep s hinv
  obtain rfl : u = t := by simpa [hu] using h
  exact hinvu

/-- The invariant holds of every state of every run from reset. -/
theorem inv_of_reachable (h : Reachable t) : Inv t := by
  obtain ⟨p, turns, later, n, hdepth, hrun⟩ := h
  exact runSteps_keeps (fun _ _ => step_inv) (inv_reset turns later hdepth) hrun

/-- Settles O36: uniqueness is a clause of the invariant. -/
theorem uniqueActiveIdentifiers : Obligations.UniqueActiveIdentifiers := fun _ h => (inv_of_reachable h).unique

end Sys2Proof.Machine

/-!
Unspecified fields (R37): two states that agree on all but fields whose value is unspecified step to states that agree
again. A field a command reads is specified, and a field becomes specified by a write of the same value on both sides.
-/

namespace Sys2Proof.Machine

variable {s t s' t' : State} {r r' : Run} {i : Instr} {ext rtr hasMask : Bool} {dlc n : Nat}
  {m : Fin Config.numMailboxes} {k : Fin Config.numBanks}

/-! ### Agreement of two mailboxes and of two banks -/

/-- The mailboxes have the same request flag, and agree on the first `n` of their four fields. -/
structure Mailbox.AgreesTo (n : Nat) (b c : Mailbox) : Prop where
  txrq : b.txrq = c.txrq
  idw : 1 ≤ n → b.idwField = c.idwField
  dlc : 2 ≤ n → b.dlc = c.dlc
  tdlr : 3 ≤ n → b.tdlr = c.tdlr
  tdhr : 4 ≤ n → b.tdhr = c.tdhr

/-- The banks have the same activation flag, and agree on the first `n` of their four fields. -/
structure Bank.AgreesTo (n : Nat) (b c : Bank) : Prop where
  act : b.act = c.act
  msa : 1 ≤ n → b.msa = c.msa
  msb : 2 ≤ n → b.msb = c.msb
  fid : 3 ≤ n → b.fid = c.fid
  fmask : 4 ≤ n → b.fmask = c.fmask

section mailbox
variable {b c : Mailbox}

theorem Mailbox.AgreesTo.mono {n' : Nat} (h : b.AgreesTo n c) (hle : n' ≤ n) : b.AgreesTo n' c :=
  ⟨h.txrq, fun h' => h.idw (by omega), fun h' => h.dlc (by omega), fun h' => h.tdlr (by omega),
    fun h' => h.tdhr (by omega)⟩

/-- There are four fields. -/
theorem Mailbox.AgreesTo.of_four (h : b.AgreesTo 4 c) : b.AgreesTo n c :=
  ⟨h.txrq, fun _ => h.idw (by omega), fun _ => h.dlc (by omega), fun _ => h.tdlr (by omega), fun _ => h.tdhr (by omega)⟩

/-- A write of the whole word TIR specifies the identifier. -/
theorem Mailbox.AgreesTo.writeTir (v : Word) : ({ b with tir := v } : Mailbox).AgreesTo 1 { c with tir := v } :=
  ⟨rfl, fun _ => rfl, fun h' => by omega, fun h' => by omega, fun h' => by omega⟩

theorem Mailbox.AgreesTo.writeDlc (h : b.AgreesTo 1 c) (v : BitVec 4) : (b.withDlc v).AgreesTo 2 (c.withDlc v) :=
  ⟨h.txrq, fun _ => h.idw (by omega), fun _ => by rw [Mailbox.dlc_withDlc, Mailbox.dlc_withDlc], fun h' => by omega,
    fun h' => by omega⟩

theorem Mailbox.AgreesTo.writeTdlr (h : b.AgreesTo 2 c) (v : Word) :
    ({ b with tdlr := v } : Mailbox).AgreesTo 3 { c with tdlr := v } :=
  ⟨h.txrq, fun _ => h.idw (by omega), fun _ => h.dlc (by omega), fun _ => rfl, fun h' => by omega⟩

theorem Mailbox.AgreesTo.writeTdhr (h : b.AgreesTo 3 c) (v : Word) :
    ({ b with tdhr := v } : Mailbox).AgreesTo 4 { c with tdhr := v } :=
  ⟨h.txrq, fun _ => h.idw (by omega), fun _ => h.dlc (by omega), fun _ => h.tdlr (by omega), fun _ => rfl⟩

theorem Mailbox.AgreesTo.withTxrq (h : b.AgreesTo n c) (v : Bool) : (b.withTxrq v).AgreesTo n (c.withTxrq v) :=
  ⟨by rw [Mailbox.txrq_withTxrq, Mailbox.txrq_withTxrq],
    fun h' => by rw [Mailbox.idwField_withTxrq, Mailbox.idwField_withTxrq, h.idw h'], h.dlc, h.tdlr, h.tdhr⟩

/-- Mailboxes that agree on all four fields look alike to TxEngine (R124). -/
theorem Mailbox.AgreesTo.frameWords (h : b.AgreesTo 4 c) : b.frameWords = c.frameWords := by
  have htir : b.tir = c.tir := by
    rw [← b.tir_fields, ← c.tir_fields, h.txrq, h.idw (by omega)]
  simp only [Mailbox.frameWords, htir, h.dlc (by omega), h.tdlr (by omega), h.tdhr (by omega)]

end mailbox

section bank
variable {b c : Bank}

theorem Bank.AgreesTo.mono {n' : Nat} (h : b.AgreesTo n c) (hle : n' ≤ n) : b.AgreesTo n' c :=
  ⟨h.act, fun h' => h.msa (by omega), fun h' => h.msb (by omega), fun h' => h.fid (by omega),
    fun h' => h.fmask (by omega)⟩

theorem Bank.AgreesTo.writeMsa (h : b.AgreesTo 0 c) (v : Bool) :
    ({ b with msa := v } : Bank).AgreesTo 1 { c with msa := v } :=
  ⟨h.act, fun _ => rfl, fun h' => by omega, fun h' => by omega, fun h' => by omega⟩

theorem Bank.AgreesTo.writeMsb (h : b.AgreesTo 1 c) (v : Bool) :
    ({ b with msb := v } : Bank).AgreesTo 2 { c with msb := v } :=
  ⟨h.act, fun _ => h.msa (by omega), fun _ => rfl, fun h' => by omega, fun h' => by omega⟩

theorem Bank.AgreesTo.writeFid (h : b.AgreesTo 2 c) (v : Word) :
    ({ b with fid := v } : Bank).AgreesTo 3 { c with fid := v } :=
  ⟨h.act, fun _ => h.msa (by omega), fun _ => h.msb (by omega), fun _ => rfl, fun h' => by omega⟩

theorem Bank.AgreesTo.writeFmask (h : b.AgreesTo 3 c) (v : Word) :
    ({ b with fmask := v } : Bank).AgreesTo 4 { c with fmask := v } :=
  ⟨h.act, fun _ => h.msa (by omega), fun _ => h.msb (by omega), fun _ => h.fid (by omega), fun _ => rfl⟩

theorem Bank.AgreesTo.withAct (h : b.AgreesTo n c) (v : Bool) :
    ({ b with act := v } : Bank).AgreesTo n { c with act := v } := ⟨rfl, h.msa, h.msb, h.fid, h.fmask⟩

/-- An active bank whose fields are all specified holds the same identifier on both sides. -/
theorem Bank.AgreesTo.eq (h : b.AgreesTo 4 c) : b = c := by
  obtain ⟨hact, hmsa, hmsb, hfid, hfmask⟩ := h
  cases b
  cases c
  simp_all

end bank

/-! ### How many fields are specified -/

/-- How many fields of the mailbox or bank with index `j` the command `op` in progress has written (R121, R141). -/
def State.programmedFields (s : State) (op : Op) (j : Nat) : Nat :=
  match s.seq, s.seqOp with
  | .run r, some op' => if op' = op ∧ r.k = j then r.upc - 2 else 0
  | _, _ => 0

theorem programmedFields_of_idle (h : s.seq = .idle) (op : Op) (j : Nat) : s.programmedFields op j = 0 := by
  simp [State.programmedFields, h]

theorem programmedFields_of_run (hr : s.seq = .run r) (hd : decode r.cmd = .ok i) (op : Op) (j : Nat) :
    s.programmedFields op j = if i.op = op ∧ r.k = j then r.upc - 2 else 0 := by
  simp [State.programmedFields, State.seqOp, State.current_run hr hd, hr]

/-- No field is written before upc 2. -/
theorem programmedFields_of_upc_le (hr : s.seq = .run r) (hd : decode r.cmd = .ok i) (hu : r.upc ≤ 2) (op : Op)
    (j : Nat) : s.programmedFields op j = 0 := by
  rw [programmedFields_of_run hr hd]
  split <;> omega

theorem programmedFields_congr (h : t.seq = s.seq) (op : Op) (j : Nat) :
    t.programmedFields op j = s.programmedFields op j := by
  simp [State.programmedFields, State.seqOp, State.current, h]

theorem specifiedMailboxFields_eq (s : State) (m : Fin Config.numMailboxes) :
    s.specifiedMailboxFields m = if s.txrq m then 4 else s.programmedFields .tx m.val := by
  unfold State.specifiedMailboxFields State.programmedFields
  cases s.seq with
  | idle => rfl
  | run r =>
    cases s.seqOp with
    | none => rfl
    | some op => cases op <;> simp

theorem specifiedBankFields_eq (s : State) (k : Fin Config.numBanks) :
    s.specifiedBankFields k = if (s.bank k).act then 4 else s.programmedFields .fadd k.val := by
  unfold State.specifiedBankFields State.programmedFields
  cases s.seq with
  | idle => rfl
  | run r =>
    cases s.seqOp with
    | none => rfl
    | some op => cases op <;> simp

/-! ### Agreement of the two files -/

/-- The mailboxes of `s` and `t` agree on what is specified in `s`. -/
def MailboxesAgree (s t : State) : Prop := ∀ m, (s.mailbox m).AgreesTo (s.specifiedMailboxFields m) (t.mailbox m)

/-- The banks of `s` and `t` agree on what is specified in `s`. -/
def BanksAgree (s t : State) : Prop := ∀ k, (s.bank k).AgreesTo (s.specifiedBankFields k) (t.bank k)

theorem agreeOnSpecified_iff : AgreeOnSpecified s t ↔
    t = { s with txmb := t.txmb, fb := t.fb, cmd := t.cmd } ∧
    MailboxesAgree s t ∧ BanksAgree s t :=
  ⟨fun ⟨hothers, htxrq, hidw, hdlc, htdlr, htdhr, hact, hmsa, hmsb, hfid, hfmask⟩ =>
      ⟨hothers, fun m => ⟨htxrq m, hidw m, hdlc m, htdlr m, htdhr m⟩,
        fun k => ⟨hact k, hmsa k, hmsb k, hfid k, hfmask k⟩⟩,
    fun ⟨hothers, hmailbox, hbank⟩ =>
      ⟨hothers, fun m => (hmailbox m).txrq, fun m => (hmailbox m).idw, fun m => (hmailbox m).dlc,
        fun m => (hmailbox m).tdlr, fun m => (hmailbox m).tdhr, fun k => (hbank k).act, fun k => (hbank k).msa,
        fun k => (hbank k).msb, fun k => (hbank k).fid, fun k => (hbank k).fmask⟩⟩

theorem MailboxesAgree.txrq (h : MailboxesAgree s t) (m : Fin Config.numMailboxes) : t.txrq m = s.txrq m := (h m).txrq.symm

theorem BanksAgree.act (h : BanksAgree s t) (k : Fin Config.numBanks) : (t.bank k).act = (s.bank k).act := (h k).act.symm

/-- A Busy mailbox is the same to TxEngine on both sides. -/
theorem MailboxesAgree.of_busy (h : MailboxesAgree s t) (hbusy : s.txrq m = true) :
    (s.mailbox m).AgreesTo 4 (t.mailbox m) := by
  have hm := h m
  rwa [specifiedMailboxFields_eq, if_pos hbusy] at hm

/-- A Free mailbox agrees on what TX has written of it. -/
theorem MailboxesAgree.of_free (h : MailboxesAgree s t) (hfree : s.txrq m = false) :
    (s.mailbox m).AgreesTo (s.programmedFields .tx m.val) (t.mailbox m) := by
  have hm := h m
  rwa [specifiedMailboxFields_eq, if_neg (by simp [hfree])] at hm

/-- An active bank is the same on both sides. -/
theorem BanksAgree.of_active (h : BanksAgree s t) (hact : (s.bank k).act = true) : s.bank k = t.bank k := by
  have hk := h k
  rw [specifiedBankFields_eq, if_pos hact] at hk
  exact hk.eq

/-- An inactive bank agrees on what FADD has written of it. -/
theorem BanksAgree.of_inactive (h : BanksAgree s t) (hact : (s.bank k).act = false) :
    (s.bank k).AgreesTo (s.programmedFields .fadd k.val) (t.bank k) := by
  have hk := h k
  rwa [specifiedBankFields_eq, if_neg (by simp [hact])] at hk

/-- What holds of a mailbox that is as before, where TX has written no more of it than before. -/
theorem MailboxesAgree.kept_at (h : MailboxesAgree s t) (hs : s'.mailbox m = s.mailbox m) (ht : t'.mailbox m = t.mailbox m)
    (hle : s'.programmedFields .tx m.val ≤ s.programmedFields .tx m.val) :
    (s'.mailbox m).AgreesTo (s'.specifiedMailboxFields m) (t'.mailbox m) := by
  have hm := h m
  rw [specifiedMailboxFields_eq] at hm ⊢
  rw [hs, ht, State.txrq_congr hs]
  refine hm.mono ?_
  split
  · exact le_rfl
  · exact hle

theorem BanksAgree.kept_at (h : BanksAgree s t) (hs : s'.bank k = s.bank k) (ht : t'.bank k = t.bank k)
    (hle : s'.programmedFields .fadd k.val ≤ s.programmedFields .fadd k.val) :
    (s'.bank k).AgreesTo (s'.specifiedBankFields k) (t'.bank k) := by
  have hk := h k
  rw [specifiedBankFields_eq] at hk ⊢
  rw [hs, ht]
  refine hk.mono ?_
  split
  · exact le_rfl
  · exact hle

theorem MailboxesAgree.kept (h : MailboxesAgree s t) (hs : s'.txmb = s.txmb) (ht : t'.txmb = t.txmb)
    (hle : ∀ j, s'.programmedFields .tx j ≤ s.programmedFields .tx j) : MailboxesAgree s' t' :=
  fun m => h.kept_at (State.mailbox_congr _ _ hs m) (State.mailbox_congr _ _ ht m) (hle m.val)

theorem BanksAgree.kept (h : BanksAgree s t) (hs : s'.fb = s.fb) (ht : t'.fb = t.fb)
    (hle : ∀ j, s'.programmedFields .fadd j ≤ s.programmedFields .fadd j) : BanksAgree s' t' :=
  fun k => h.kept_at (State.bank_congr _ _ hs k) (State.bank_congr _ _ ht k) (hle k.val)

/-- One mailbox written on both sides, of which at most `n` fields are then specified. -/
theorem MailboxesAgree.written {b c : Mailbox} (h : MailboxesAgree s t)
    (hs : s'.txmb = (s.updMailbox m fun _ => b).txmb) (ht : t'.txmb = (t.updMailbox m fun _ => c).txmb)
    (hbc : b.AgreesTo n c) (hn : s'.specifiedMailboxFields m ≤ n)
    (hle : ∀ j, j ≠ m.val → s'.programmedFields .tx j ≤ s.programmedFields .tx j) : MailboxesAgree s' t' := by
  intro j
  by_cases hjm : j = m
  · subst hjm
    rw [mailbox_of_txmb_eq_upd hs, mailbox_of_txmb_eq_upd ht]
    exact hbc.mono hn
  · exact h.kept_at (onlyMailbox_of_txmb_eq_upd hs j hjm) (onlyMailbox_of_txmb_eq_upd ht j hjm)
      (hle j fun h => hjm (Fin.ext h))

/-- One bank written on both sides, of which at most `n` fields are then specified. -/
theorem BanksAgree.written {b c : Bank} (h : BanksAgree s t) (hs : s'.fb = (s.updBank k fun _ => b).fb)
    (ht : t'.fb = (t.updBank k fun _ => c).fb) (hbc : b.AgreesTo n c) (hn : s'.specifiedBankFields k ≤ n)
    (hle : ∀ j, j ≠ k.val → s'.programmedFields .fadd j ≤ s.programmedFields .fadd j) : BanksAgree s' t' := by
  intro j
  by_cases hjk : j = k
  · subst hjk
    rw [bank_of_fb_eq_upd hs, bank_of_fb_eq_upd ht]
    exact hbc.mono hn
  · exact h.kept_at (onlyBank_of_fb_eq_upd hs j hjk) (onlyBank_of_fb_eq_upd ht j hjk)
      (hle j fun h => hjk (Fin.ext h))

/-- A command that is not `op` programs nothing of `op`'s. -/
theorem programmedFields_of_seqMove {op : Op} (hr : s.seq = .run r) (hd : decode r.cmd = .ok i) (hop : i.op ≠ op)
    (h : SeqMove s s') (j : Nat) : s'.programmedFields op j = 0 := by
  cases h with
  | goesOn q q' hq hq' hcmd harg hrsp hres hfaults =>
    obtain rfl : q = r := by simpa [hq] using hr
    rw [programmedFields_of_run hq' (hcmd ▸ hd), if_neg (fun h => hop h.1)]
  | ends st hst hidle hrsp hfaults => exact programmedFields_of_idle hidle op j

/-! ### The commands that write no mailbox and no bank -/

/-- The state with other mailboxes, other banks and another word in CMD. -/
def State.withFiles (s : State) (txmb : Vector Mailbox Config.numMailboxes) (fb : Vector Bank Config.numBanks)
    (cmd : Word) : State := { s with txmb := txmb, fb := fb, cmd := cmd }

section withFiles
variable {txmb : Vector Mailbox Config.numMailboxes} {fb : Vector Bank Config.numBanks} {cmd : Word}

theorem execEnc_withFiles (h : execEnc ext rtr dlc s = .next s') :
    execEnc ext rtr dlc (s.withFiles txmb fb cmd) = .next (s'.withFiles txmb fb cmd) := by
  obtain ⟨r, hr, ⟨hs, rfl⟩ | ⟨hs, hu, ⟨hwf, rfl⟩ | ⟨hwf, rfl⟩⟩⟩ := execEnc_next h
  · exact exec_of_stopped (s := s'.withFiles txmb fb cmd) hr hs (.enc ext rtr dlc)
  · exact exec_enc_of_wellFormed ⟨hr, hs, hu⟩ hwf
  · exact exec_enc_of_illFormed ⟨hr, hs, hu⟩ hwf

theorem execDec_withFiles (h : execDec s = .next s') :
    execDec (s.withFiles txmb fb cmd) = .next (s'.withFiles txmb fb cmd) := by
  obtain ⟨r, hr, ⟨hs, rfl⟩ | ⟨hs, hu, ⟨f, hf, rfl⟩ | ⟨hf, rfl⟩⟩⟩ := execDec_next h
  · exact exec_of_stopped (s := s'.withFiles txmb fb cmd) hr hs .dec
  · exact exec_dec_of_some ⟨hr, hs, hu⟩ hf
  · exact exec_dec_of_none ⟨hr, hs, hu⟩ hf

theorem execRx_withFiles (h : execRx s = .next s') :
    execRx (s.withFiles txmb fb cmd) = .next (s'.withFiles txmb fb cmd) := by
  obtain ⟨r, hr, ⟨hs, rfl⟩ | ⟨hs, ⟨hu, hq, rfl⟩ | ⟨hu, hne, rfl⟩ | ⟨e, q, hu, hq, hf, rfl⟩ | ⟨e, q, f, hu, hq, hf, rfl⟩ |
    ⟨hu, rfl⟩⟩⟩ := execRx_next h
  · exact exec_of_stopped (s := s'.withFiles txmb fb cmd) hr hs .rx
  · exact exec_rx_of_empty (s := s.withFiles txmb fb cmd) ⟨hr, hs, hu⟩ hq
  · exact exec_rx_of_nonempty (s := s.withFiles txmb fb cmd) ⟨hr, hs, hu⟩ hne
  · exact exec_rx_decode_of_none (s := s.withFiles txmb fb cmd) ⟨hr, hs, hu⟩ hq hf
  · exact exec_rx_decode_of_some (s := s.withFiles txmb fb cmd) ⟨hr, hs, hu⟩ hq hf
  · exact exec_rx_release (s := s.withFiles txmb fb cmd) ⟨hr, hs, hu⟩

/-- FCNT reads activation flags, which are always specified. -/
theorem execFcnt_withFiles (hbanks : BanksAgree s (s.withFiles txmb fb cmd)) (h : execFcnt s = .next s') :
    execFcnt (s.withFiles txmb fb cmd) = .next (s'.withFiles txmb fb cmd) := by
  obtain ⟨r, hr, ⟨hs, rfl⟩ | ⟨hs, hu, k, hk, c, hc, hscan⟩⟩ := execFcnt_next h
  · exact exec_of_stopped (s := s'.withFiles txmb fb cmd) hr hs .fcnt
  · rw [← hbanks.act] at hc
    have hstep := exec_fcnt (s := s.withFiles txmb fb cmd) hk ⟨hr, hs, hu⟩ hc
    obtain ⟨hlt, rfl⟩ | ⟨hlast, rfl⟩ := hscan
    · exact hstep.trans (scanOn_of_lt _ hlt)
    · exact hstep.trans (scanOn_of_not_lt _ hlast)

end withFiles

/-! ### TX -/

/-- At the mailbox TX is programming both sides agree on what it has written. -/
theorem MailboxesAgree.of_programming (h : MailboxesAgree s t) (hr : s.seq = .run r)
    (hd : decode r.cmd = .ok (.tx ext rtr dlc)) (hm : m.val = r.k) (hfree : s.txrq m = false) :
    (s.mailbox m).AgreesTo (r.upc - 2) (t.mailbox m) := by
  have hagree := h.of_free hfree
  rwa [programmedFields_of_run hr hd, if_pos ⟨rfl, hm.symm⟩] at hagree

/-- TX's write of one field, at whose end it is at `r'`. -/
theorem MailboxesAgree.txWrite {b c : Mailbox} (h : MailboxesAgree s t) (hr' : s'.seq = .run r')
    (hd : decode r'.cmd = .ok (.tx ext rtr dlc)) (hm : m.val = r'.k) (hbc : b.AgreesTo (r'.upc - 2) c)
    (hs : s'.txmb = (s.updMailbox m fun _ => b).txmb) (ht : t'.txmb = (t.updMailbox m fun _ => c).txmb)
    (hfree : b.txrq = false) : MailboxesAgree s' t' := by
  have hfree' : s'.txrq m = false := (congrArg Mailbox.txrq (mailbox_of_txmb_eq_upd hs)).trans hfree
  refine h.written hs ht hbc ?_ fun j hj => ?_
  · rw [specifiedMailboxFields_eq, if_neg (by simp [hfree']), programmedFields_of_run hr' hd, if_pos ⟨rfl, hm.symm⟩]
  · rw [programmedFields_of_run hr' hd, if_neg (fun h => hj (by omega))]
    exact Nat.zero_le _

/-- TX's last write, after which the mailbox is Busy. -/
theorem MailboxesAgree.txRequest {b c : Mailbox} (h : MailboxesAgree s t) (hidle : s'.seq = .idle)
    (hs : s'.txmb = (s.updMailbox m fun _ => b).txmb) (ht : t'.txmb = (t.updMailbox m fun _ => c).txmb)
    (hbc : b.AgreesTo 4 c) : MailboxesAgree s' t' := by
  refine h.written hs ht hbc ?_ fun j _ => ?_
  · rw [specifiedMailboxFields_eq, programmedFields_of_idle hidle]
    split <;> omega
  · rw [programmedFields_of_idle hidle]
    exact Nat.zero_le _

section withFiles
variable {txmb : Vector Mailbox Config.numMailboxes} {fb : Vector Bank Config.numBanks} {cmd : Word}

theorem execTx_withFiles (hpos : txPosition ext rtr dlc r s) (hr : s.seq = .run r)
    (hd : decode r.cmd = .ok (.tx ext rtr dlc)) (hag : MailboxesAgree s (s.withFiles txmb fb cmd))
    (h : execTx ext rtr dlc s = .next s') :
    ∃ txmb', execTx ext rtr dlc (s.withFiles txmb fb cmd) = .next (s'.withFiles txmb' fb cmd) ∧
      MailboxesAgree s' (s'.withFiles txmb' fb cmd) := by
  obtain ⟨-, -, -, hframe, hwritten⟩ := hpos
  obtain ⟨q, hq, hcase⟩ := execTx_next h
  obtain rfl : q = r := by simpa [hq] using hr
  have early {u : State} {q' : Run} (hq' : u.seq = .run q') (hcmd : q'.cmd = q.cmd) (hu : q'.upc ≤ 2)
      (htxmb : u.txmb = s.txmb) : MailboxesAgree u (u.withFiles txmb fb cmd) :=
    hag.kept htxmb rfl fun j => (programmedFields_of_upc_le hq' (hcmd ▸ hd) hu .tx j).trans_le (Nat.zero_le _)
  obtain ⟨hs, rfl⟩ | ⟨hs, ⟨hu, hwf, rfl⟩ | ⟨hu, hwf, rfl⟩ | ⟨m, hm, hscan⟩⟩ := hcase
  · exact ⟨txmb, exec_of_stopped (s := s'.withFiles txmb fb cmd) hq hs (.tx ext rtr dlc), hag⟩
  · exact ⟨txmb, exec_tx_of_wellFormed (s := s.withFiles txmb fb cmd) ⟨hq, hs, hu⟩ hwf, early rfl rfl (by simp) rfl⟩
  · exact ⟨txmb, exec_tx_of_illFormed (s := s.withFiles txmb fb cmd) ⟨hq, hs, hu⟩ hwf, early rfl rfl (by simp [hu]) rfl⟩
  · have hat {n : Nat} (hn : q.upc = n) : (s.withFiles txmb fb cmd).atStep q n := ⟨hq, hs, hn⟩
    have hfree (hu : 2 ≤ q.upc) : s.txrq m = false := (hwritten m hm).1 hu
    have hself {n : Nat} (hu : q.upc = n + 2) : (s.mailbox m).AgreesTo n ((s.withFiles txmb fb cmd).mailbox m) := by
      have hagree := hag.of_programming hq hd hm (hfree (by omega))
      rwa [hu] at hagree
    obtain ⟨hu, hbusy, hlt, rfl⟩ | ⟨hu, hbusy, hlast, rfl⟩ | ⟨hu, hfree1, rfl⟩ | ⟨hu, rfl⟩ | ⟨hu, rfl⟩ | ⟨hu, rfl⟩ |
      ⟨hu, rfl⟩ | ⟨hu, rfl⟩ := hscan
    · exact ⟨txmb, (exec_tx_scan_of_busy hm (hat hu) ((hag.txrq m).trans hbusy)).trans (scanOn_of_lt _ hlt),
        early rfl rfl (by simp) rfl⟩
    · exact ⟨txmb, (exec_tx_scan_of_busy hm (hat hu) ((hag.txrq m).trans hbusy)).trans (scanOn_of_not_lt _ hlast),
        hag.kept rfl rfl fun j => (programmedFields_of_idle rfl .tx j).trans_le (Nat.zero_le _)⟩
    · exact ⟨txmb, exec_tx_scan_of_free hm (hat hu) ((hag.txrq m).trans hfree1), early rfl rfl (by simp) rfl⟩
    · obtain ⟨hwf, hw⟩ := hframe (by omega)
      have hzero : q.snap.w.idw.getLsbD 0 = false := hw ▸ getLsbD_zero_encodeFrame hwf
      exact ⟨_, exec_tx_writeTir hm (hat hu), hag.txWrite rfl hd hm (.writeTir _) rfl rfl hzero⟩
    · exact ⟨_, exec_tx_writeDlc hm (hat hu), hag.txWrite rfl hd hm ((hself hu).writeDlc _) rfl rfl (hfree (by omega))⟩
    · exact ⟨_, exec_tx_writeTdlr hm (hat hu), hag.txWrite rfl hd hm ((hself hu).writeTdlr _) rfl rfl (hfree (by omega))⟩
    · exact ⟨_, exec_tx_writeTdhr hm (hat hu), hag.txWrite rfl hd hm ((hself hu).writeTdhr _) rfl rfl (hfree (by omega))⟩
    · exact ⟨_, exec_tx_writeTxrq hm (hat hu), hag.txRequest rfl rfl rfl ((hself hu).withTxrq true)⟩

end withFiles

/-! ### FADD, FREM and FCLR -/

/-- At the bank FADD is programming both sides agree on what it has written. -/
theorem BanksAgree.of_programming (h : BanksAgree s t) (hr : s.seq = .run r)
    (hd : decode r.cmd = .ok (.fadd hasMask)) (hk : k.val = r.k) (hact : (s.bank k).act = false) :
    (s.bank k).AgreesTo (r.upc - 2) (t.bank k) := by
  have hagree := h.of_inactive hact
  rwa [programmedFields_of_run hr hd, if_pos ⟨rfl, hk.symm⟩] at hagree

/-- FADD's write of one field, at whose end it is at `r'`. -/
theorem BanksAgree.faddWrite {b c : Bank} (h : BanksAgree s t) (hr' : s'.seq = .run r')
    (hd : decode r'.cmd = .ok (.fadd hasMask)) (hk : k.val = r'.k) (hbc : b.AgreesTo (r'.upc - 2) c)
    (hs : s'.fb = (s.updBank k fun _ => b).fb) (ht : t'.fb = (t.updBank k fun _ => c).fb)
    (hact : b.act = false) : BanksAgree s' t' := by
  have hact' : (s'.bank k).act = false := (congrArg Bank.act (bank_of_fb_eq_upd hs)).trans hact
  refine h.written hs ht hbc ?_ fun j hj => ?_
  · rw [specifiedBankFields_eq, if_neg (by simp [hact']), programmedFields_of_run hr' hd, if_pos ⟨rfl, hk.symm⟩]
  · rw [programmedFields_of_run hr' hd, if_neg (fun h => hj (by omega))]
    exact Nat.zero_le _

/-- FADD's last write, after which the bank is active. -/
theorem BanksAgree.faddActivate {b c : Bank} (h : BanksAgree s t) (hidle : s'.seq = .idle)
    (hs : s'.fb = (s.updBank k fun _ => b).fb) (ht : t'.fb = (t.updBank k fun _ => c).fb)
    (hbc : b.AgreesTo 4 c) : BanksAgree s' t' := by
  refine h.written hs ht hbc ?_ fun j _ => ?_
  · rw [specifiedBankFields_eq, programmedFields_of_idle hidle]
    split <;> omega
  · rw [programmedFields_of_idle hidle]
    exact Nat.zero_le _

/-- The clearing of an activation flag, while no FADD is in progress. -/
theorem BanksAgree.clearAct (h : BanksAgree s t) (hzero : ∀ j, s'.programmedFields .fadd j = 0)
    (hs : s'.fb = (s.writeAct k false).fb) (ht : t'.fb = (t.writeAct k false).fb) : BanksAgree s' t' := by
  have hoff : (s'.bank k).act = false := congrArg Bank.act (bank_of_fb_eq_upd (s := s) (k := k) hs)
  refine h.written (n := 0) hs ht (((h k).mono (Nat.zero_le _)).withAct false) ?_
    fun j _ => (hzero j).trans_le (Nat.zero_le _)
  rw [specifiedBankFields_eq, if_neg (by simp [hoff]), hzero]

/-- The search for an active bank with an identifier finds the same bank on both sides. -/
theorem BanksAgree.holds (h : BanksAgree s t) (fid : Word) (k : Fin Config.numBanks) :
    (t.bank k).holds fid = (s.bank k).holds fid := by
  cases hact : (s.bank k).act with
  | true => rw [h.of_active hact]
  | false => rw [Bank.holds_of_inactive hact, Bank.holds_of_inactive ((h.act k).trans hact)]

theorem BanksAgree.lowestBank_holds (h : BanksAgree s t) (fid : Word) :
    t.lowestBank (Bank.holds fid) = s.lowestBank (Bank.holds fid) := by
  simp only [State.lowestBank, h.holds]

section withFiles
variable {txmb : Vector Mailbox Config.numMailboxes} {fb : Vector Bank Config.numBanks} {cmd : Word}

theorem execFadd_withFiles (hpos : faddPosition hasMask r s) (hr : s.seq = .run r)
    (hd : decode r.cmd = .ok (.fadd hasMask)) (hag : BanksAgree s (s.withFiles txmb fb cmd))
    (h : execFadd hasMask s = .next s') :
    ∃ fb', execFadd hasMask (s.withFiles txmb fb cmd) = .next (s'.withFiles txmb fb' cmd) ∧
      BanksAgree s' (s'.withFiles txmb fb' cmd) := by
  obtain ⟨-, -, -, -, hwritten⟩ := hpos
  obtain ⟨q, hq, hcase⟩ := execFadd_next h
  obtain rfl : q = r := by simpa [hq] using hr
  have early {u : State} {q' : Run} (hq' : u.seq = .run q') (hcmd : q'.cmd = q.cmd) (hu : q'.upc ≤ 2)
      (hfb : u.fb = s.fb) : BanksAgree u (u.withFiles txmb fb cmd) :=
    hag.kept hfb rfl fun j => (programmedFields_of_upc_le hq' (hcmd ▸ hd) hu .fadd j).trans_le (Nat.zero_le _)
  obtain ⟨hs, rfl⟩ | ⟨hs, ⟨j, hu, hj, rfl⟩ | ⟨hu, hnone, rfl⟩ | ⟨k, hk, hscan⟩⟩ := hcase
  · exact ⟨fb, exec_of_stopped (s := s'.withFiles txmb fb cmd) hq hs (.fadd hasMask), hag⟩
  · exact ⟨fb, exec_fadd_of_duplicate (s := s.withFiles txmb fb cmd) ⟨hq, hs, hu⟩ ((hag.lowestBank_holds _).trans hj),
      early rfl rfl (by simp [hu]) rfl⟩
  · exact ⟨fb, exec_fadd_of_noDuplicate (s := s.withFiles txmb fb cmd) ⟨hq, hs, hu⟩
      ((hag.lowestBank_holds _).trans hnone), early rfl rfl (by simp) rfl⟩
  · have hat {n : Nat} (hn : q.upc = n) : (s.withFiles txmb fb cmd).atStep q n := ⟨hq, hs, hn⟩
    have hoff (hu : 2 ≤ q.upc) : (s.bank k).act = false := (hwritten k hk).1 hu
    have hself {n : Nat} (hu : q.upc = n + 2) : (s.bank k).AgreesTo n ((s.withFiles txmb fb cmd).bank k) := by
      have hagree := hag.of_programming hq hd hk (hoff (by omega))
      rwa [hu] at hagree
    obtain ⟨hu, hact, hlt, rfl⟩ | ⟨hu, hact, hlast, rfl⟩ | ⟨hu, hact, rfl⟩ | ⟨hu, rfl⟩ | ⟨hu, rfl⟩ | ⟨hu, rfl⟩ |
      ⟨hu, rfl⟩ | ⟨hu, rfl⟩ := hscan
    · exact ⟨fb, (exec_fadd_scan_of_active hk (hat hu) ((hag.act k).trans hact)).trans (scanOn_of_lt _ hlt),
        early rfl rfl (by simp) rfl⟩
    · exact ⟨fb, (exec_fadd_scan_of_active hk (hat hu) ((hag.act k).trans hact)).trans (scanOn_of_not_lt _ hlast),
        hag.kept rfl rfl fun j => (programmedFields_of_idle rfl .fadd j).trans_le (Nat.zero_le _)⟩
    · exact ⟨fb, exec_fadd_scan_of_inactive hk (hat hu) ((hag.act k).trans hact), early rfl rfl (by simp) rfl⟩
    · exact ⟨_, exec_fadd_writeMsa hk (hat hu), hag.faddWrite rfl hd hk ((hself hu).writeMsa _) rfl rfl (hoff (by omega))⟩
    · exact ⟨_, exec_fadd_writeMsb hk (hat hu), hag.faddWrite rfl hd hk ((hself hu).writeMsb _) rfl rfl (hoff (by omega))⟩
    · exact ⟨_, exec_fadd_writeFid hk (hat hu), hag.faddWrite rfl hd hk ((hself hu).writeFid _) rfl rfl (hoff (by omega))⟩
    · rw [filterMask_filterOperand] at h ⊢
      exact ⟨_, exec_fadd_writeFmask hk (hat hu),
        hag.faddWrite rfl hd hk ((hself hu).writeFmask _) rfl rfl (hoff (by omega))⟩
    · exact ⟨_, exec_fadd_writeAct hk (hat hu), hag.faddActivate rfl rfl rfl ((hself hu).withAct true)⟩

theorem execFrem_withFiles (hpos : fremPosition r s) (hr : s.seq = .run r) (hd : decode r.cmd = .ok .frem)
    (hag : BanksAgree s (s.withFiles txmb fb cmd)) (h : execFrem s = .next s') :
    ∃ fb', execFrem (s.withFiles txmb fb cmd) = .next (s'.withFiles txmb fb' cmd) ∧
      BanksAgree s' (s'.withFiles txmb fb' cmd) := by
  have hzero (j : Nat) : s'.programmedFields .fadd j = 0 :=
    programmedFields_of_seqMove hr hd (by decide) (execFrem_seqMove h) j
  have kept (hfb : s'.fb = s.fb) : BanksAgree s' (s'.withFiles txmb fb cmd) :=
    hag.kept hfb rfl fun j => (hzero j).trans_le (Nat.zero_le _)
  obtain ⟨-, -, hs, -, hbank⟩ := hpos
  obtain ⟨q, hq, hcase⟩ := execFrem_next h
  obtain rfl : q = r := by simpa [hq] using hr
  obtain ⟨hstop, -⟩ | ⟨-, ⟨hu, rfl⟩ | ⟨k, hk, hscan⟩⟩ := hcase
  · simp [hs] at hstop
  · exact ⟨fb, exec_frem_start (s := s.withFiles txmb fb cmd) ⟨hq, hs, hu⟩, kept rfl⟩
  · have hat {n : Nat} (hn : q.upc = n) : (s.withFiles txmb fb cmd).atStep q n := ⟨hq, hs, hn⟩
    have hfid (hu : q.upc = 2) : ((s.withFiles txmb fb cmd).bank k).fid = (s.bank k).fid :=
      congrArg Bank.fid (hag.of_active ((hbank k hk).1 hu.ge)).symm
    have hpass' (hpass : (q.upc = 1 ∧ (s.bank k).act = false) ∨ (q.upc = 2 ∧ (s.bank k).fid ≠ q.arg.arg0)) :=
      exec_frem_passOver (s := s.withFiles txmb fb cmd) hk
        (hpass.imp (fun ⟨hu, hoff⟩ => ⟨hat hu, (hag.act k).trans hoff⟩) fun ⟨hu, hne⟩ => ⟨hat hu, hfid hu ▸ hne⟩)
    obtain ⟨hu, hact, rfl⟩ | ⟨hu, heq, rfl⟩ | ⟨hpass, hlt, rfl⟩ | ⟨hpass, hlast, rfl⟩ | ⟨hu, rfl⟩ := hscan
    · exact ⟨fb, exec_frem_scan_of_active hk (hat hu) ((hag.act k).trans hact), kept rfl⟩
    · exact ⟨fb, exec_frem_compare_of_eq hk (hat hu) ((hfid hu).trans heq), kept rfl⟩
    · exact ⟨fb, (hpass' hpass).trans (scanOn_of_lt _ hlt), kept rfl⟩
    · exact ⟨fb, (hpass' hpass).trans (scanOn_of_not_lt _ hlast), kept rfl⟩
    · exact ⟨_, exec_frem_writeAct hk (hat hu), hag.clearAct hzero rfl rfl⟩

theorem execFclr_withFiles (hr : s.seq = .run r) (hd : decode r.cmd = .ok .fclr)
    (hag : BanksAgree s (s.withFiles txmb fb cmd)) (h : execFclr s = .next s') :
    ∃ fb', execFclr (s.withFiles txmb fb cmd) = .next (s'.withFiles txmb fb' cmd) ∧
      BanksAgree s' (s'.withFiles txmb fb' cmd) := by
  have hzero (j : Nat) : s'.programmedFields .fadd j = 0 :=
    programmedFields_of_seqMove hr hd (by decide) (execFclr_seqMove h) j
  obtain ⟨q, hq, ⟨hs, rfl⟩ | ⟨hs, hu, k, hk, hscan⟩⟩ := execFclr_next h
  · exact ⟨fb, exec_of_stopped (s := s'.withFiles txmb fb cmd) hq hs .fclr, hag⟩
  · have hstep := exec_fclr (s := s.withFiles txmb fb cmd) hk ⟨hq, hs, hu⟩
    obtain ⟨hlt, rfl⟩ | ⟨hlast, rfl⟩ := hscan
    · exact ⟨_, hstep.trans (scanOn_of_lt _ hlt), hag.clearAct hzero rfl rfl⟩
    · exact ⟨_, hstep.trans (scanOn_of_not_lt _ hlast), hag.clearAct hzero rfl rfl⟩

/-! ### A micro-step of any command -/

theorem exec_withFiles (hpos : inPosition i r s) (hr : s.seq = .run r) (hd : decode r.cmd = .ok i)
    (hmailboxes : MailboxesAgree s (s.withFiles txmb fb cmd)) (hbanks : BanksAgree s (s.withFiles txmb fb cmd))
    (h : exec i s = .next s') :
    ∃ txmb' fb', exec i (s.withFiles txmb fb cmd) = .next (s'.withFiles txmb' fb' cmd) ∧
      MailboxesAgree s' (s'.withFiles txmb' fb' cmd) ∧ BanksAgree s' (s'.withFiles txmb' fb' cmd) := by
  have mailboxesKept (hi : i.op ≠ .tx) (fb' : Vector Bank Config.numBanks) :
      MailboxesAgree s' (s'.withFiles txmb fb' cmd) :=
    hmailboxes.kept (exec_txmb_of_ne_tx hi h) rfl fun j =>
      (programmedFields_of_seqMove hr hd hi (exec_seqMove h) j).trans_le (Nat.zero_le _)
  have banksKept (hi : i.op ≠ .fadd) (hfb : s'.fb = s.fb) (txmb' : Vector Mailbox Config.numMailboxes) :
      BanksAgree s' (s'.withFiles txmb' fb cmd) :=
    hbanks.kept hfb rfl fun j => (programmedFields_of_seqMove hr hd hi (exec_seqMove h) j).trans_le (Nat.zero_le _)
  cases i with
  | enc ext rtr dlc =>
    exact ⟨txmb, fb, execEnc_withFiles h, mailboxesKept nofun _, banksKept nofun (execEnc_fb h) _⟩
  | dec => exact ⟨txmb, fb, execDec_withFiles h, mailboxesKept nofun _, banksKept nofun (execDec_fb h) _⟩
  | tx ext rtr dlc =>
    obtain ⟨txmb', hexec, hmailboxes'⟩ := execTx_withFiles hpos hr hd hmailboxes h
    exact ⟨txmb', fb, hexec, hmailboxes', banksKept nofun (execTx_fb h) _⟩
  | rx => exact ⟨txmb, fb, execRx_withFiles h, mailboxesKept nofun _, banksKept nofun (execRx_fb h) _⟩
  | fadd hasMask =>
    obtain ⟨fb', hexec, hbanks'⟩ := execFadd_withFiles hpos hr hd hbanks h
    exact ⟨txmb, fb', hexec, mailboxesKept nofun _, hbanks'⟩
  | frem =>
    obtain ⟨fb', hexec, hbanks'⟩ := execFrem_withFiles hpos hr hd hbanks h
    exact ⟨txmb, fb', hexec, mailboxesKept nofun _, hbanks'⟩
  | fclr =>
    obtain ⟨fb', hexec, hbanks'⟩ := execFclr_withFiles hr hd hbanks h
    exact ⟨txmb, fb', hexec, mailboxesKept nofun _, hbanks'⟩
  | fcnt =>
    exact ⟨txmb, fb, execFcnt_withFiles hbanks h, mailboxesKept nofun _, banksKept nofun (execFcnt_fb h) _⟩

end withFiles

/-! ### A turn of each agent, and a step -/

theorem agreeOnSpecified_withFiles {txmb : Vector Mailbox Config.numMailboxes} {fb : Vector Bank Config.numBanks}
    {cmd : Word} (hmailboxes : MailboxesAgree s (s.withFiles txmb fb cmd))
    (hbanks : BanksAgree s (s.withFiles txmb fb cmd)) : AgreeOnSpecified s (s.withFiles txmb fb cmd) :=
  agreeOnSpecified_iff.2 ⟨rfl, hmailboxes, hbanks⟩

theorem AgreeOnSpecified.refl (s : State) : AgreeOnSpecified s s :=
  agreeOnSpecified_iff.2 ⟨rfl, fun _ => ⟨rfl, fun _ => rfl, fun _ => rfl, fun _ => rfl, fun _ => rfl⟩,
    fun _ => ⟨rfl, fun _ => rfl, fun _ => rfl, fun _ => rfl, fun _ => rfl⟩⟩

theorem MailboxesAgree.hostRead {txmb : Vector Mailbox Config.numMailboxes} {fb : Vector Bank Config.numBanks}
    {cmd : Word} (h : MailboxesAgree s (s.withFiles txmb fb cmd)) (reg : HostReg) :
    (s.withFiles txmb fb cmd).hostRead reg = (s.hostRead reg).withFiles txmb fb cmd := by
  have hread : (s.withFiles txmb fb cmd).readReg reg = s.readReg reg := by
    cases reg with
    | tme m => exact congrArg (fun b => bitWord (!b)) (h.txrq m)
    | _ => rfl
  rw [State.hostRead, hread]
  rfl

/-- Acceptance reads activation flags and the fields of active banks, which are all specified (R172). -/
theorem BanksAgree.accepts {txmb : Vector Mailbox Config.numMailboxes} {fb : Vector Bank Config.numBanks} {cmd : Word}
    (hbanks : BanksAgree s (s.withFiles txmb fb cmd)) (idw : Word) :
    (s.withFiles txmb fb cmd).accepts idw = s.accepts idw := by
  have hbank (k : Fin Config.numBanks) : bankAdmits s.params idw ((s.withFiles txmb fb cmd).bank k) =
      bankAdmits s.params idw (s.bank k) := by
    cases hact : (s.bank k).act with
    | true => rw [hbanks.of_active hact]
    | false => simp [bankAdmits, hact, (hbanks.act k).trans hact]
  exact congrArg (List.finRange Config.numBanks).any (funext hbank)

section agree
variable {txmb : Vector Mailbox Config.numMailboxes} {fb : Vector Bank Config.numBanks} {cmd : Word}
  (hmailboxes : MailboxesAgree s (s.withFiles txmb fb cmd)) (hbanks : BanksAgree s (s.withFiles txmb fb cmd))
include hmailboxes hbanks

/-- A turn that changes no mailbox and no bank, and leaves SEQ where it is or before any write of its command. -/
theorem agreeOnSpecified_of_kept {cmd' : Word} (htxmb : s'.txmb = s.txmb) (hfb : s'.fb = s.fb)
    (hle : ∀ op j, s'.programmedFields op j ≤ s.programmedFields op j) :
    AgreeOnSpecified s' (s'.withFiles txmb fb cmd') :=
  agreeOnSpecified_withFiles (hmailboxes.kept htxmb rfl (hle .tx)) (hbanks.kept hfb rfl (hle .fadd))

theorem agreeOnSpecified_of_seq_eq {cmd' : Word} (htxmb : s'.txmb = s.txmb) (hfb : s'.fb = s.fb)
    (hseq : s'.seq = s.seq) : AgreeOnSpecified s' (s'.withFiles txmb fb cmd') :=
  agreeOnSpecified_of_kept hmailboxes hbanks htxmb hfb fun op j => (programmedFields_congr hseq op j).le

theorem seqTurn_agree (hinv : Inv s) (h : seqTurn s = .next s') :
    ∃ t', seqTurn (s.withFiles txmb fb cmd) = .next t' ∧ AgreeOnSpecified s' t' := by
  obtain ⟨hidle, rfl⟩ | ⟨r, i, hr, hd, hexec⟩ := seqTurn_next h
  · exact ⟨_, seqTurn_idle hidle, agreeOnSpecified_withFiles hmailboxes hbanks⟩
  · obtain ⟨txmb', fb', ht, hmailboxes', hbanks'⟩ :=
      exec_withFiles (hinv.inPosition hr hd) hr hd hmailboxes hbanks hexec
    exact ⟨_, (seqTurn_run (s := s.withFiles txmb fb cmd) hr hd).trans ht,
      agreeOnSpecified_withFiles hmailboxes' hbanks'⟩

theorem hostWriteCmd_agree (w : Word) :
    AgreeOnSpecified (s.hostWriteCmd w) ((s.withFiles txmb fb cmd).hostWriteCmd w) := by
  cases hseq : s.seq with
  | run r =>
    rw [hostWriteCmd_of_run hseq, hostWriteCmd_of_run (s := s.withFiles txmb fb cmd) hseq]
    exact agreeOnSpecified_of_seq_eq (cmd' := cmd) hmailboxes hbanks rfl rfl rfl
  | idle =>
    cases hd : decode w with
    | ok i =>
      rw [hostWriteCmd_of_legal hseq hd, hostWriteCmd_of_legal (s := s.withFiles txmb fb cmd) hseq hd]
      refine agreeOnSpecified_of_kept (s' := s.issue w) (cmd' := w) hmailboxes hbanks rfl rfl fun op j => ?_
      exact (programmedFields_of_upc_le rfl hd (Nat.zero_le 2) op j).trans_le (Nat.zero_le _)
    | error e =>
      have hillegal : ¬ ∃ i, decode w = .ok i := by simp [hd]
      rw [hostWriteCmd_of_illegal hseq hillegal, hostWriteCmd_of_illegal (s := s.withFiles txmb fb cmd) hseq hillegal]
      exact agreeOnSpecified_of_seq_eq (cmd' := cmd) hmailboxes hbanks rfl rfl rfl

/-- A completion logs a Busy mailbox, all of whose fields are specified (R124). -/
theorem txDone_agree (m : Fin Config.numMailboxes) :
    AgreeOnSpecified (s.txDone m) ((s.withFiles txmb fb cmd).txDone m) := by
  have htxrq := hmailboxes.txrq m
  cases hbusy : s.txrq m with
  | false =>
    rw [txDone_of_free hbusy, txDone_of_free (htxrq.trans hbusy)]
    exact agreeOnSpecified_withFiles hmailboxes hbanks
  | true =>
    have hagree := hmailboxes.of_busy hbusy
    rw [State.txDone, State.txDone, if_pos hbusy, if_pos (htxrq.trans hbusy), ← hagree.frameWords]
    refine agreeOnSpecified_withFiles (txmb := ((s.withFiles txmb fb cmd).writeTxrq m false).txmb) (fb := fb) (cmd := cmd)
      ?_ ?_
    · exact hmailboxes.written rfl rfl (hagree.withTxrq false).of_four le_rfl
        fun j _ => (programmedFields_congr rfl .tx j).le
    · exact hbanks.kept rfl rfl fun j => (programmedFields_congr rfl .fadd j).le

theorem rxArrive_agree (w : FrameWords) : AgreeOnSpecified (s.rxArrive w) ((s.withFiles txmb fb cmd).rxArrive w) := by
  have haccepts := hbanks.accepts w.idw
  cases hacc : s.accepts w.idw with
  | false =>
    rw [State.rxArrive_of_rejected hacc, State.rxArrive_of_rejected (haccepts.trans hacc)]
    exact agreeOnSpecified_withFiles hmailboxes hbanks
  | true =>
    rw [State.rxArrive_of_accepted hacc rfl, State.rxArrive_of_accepted (haccepts.trans hacc) rfl]
    exact agreeOnSpecified_of_seq_eq (cmd' := cmd) hmailboxes hbanks rfl rfl rfl

theorem runEvent_agree {e : Event} (hinv : Inv s) (h : runEvent e s = .next s') :
    ∃ t', runEvent e (s.withFiles txmb fb cmd) = .next t' ∧ AgreeOnSpecified s' t' := by
  cases e with
  | seq => exact seqTurn_agree hmailboxes hbanks hinv h
  | hostWriteArg j v =>
    cases h
    exact ⟨_, rfl, agreeOnSpecified_of_seq_eq (cmd' := cmd) hmailboxes hbanks rfl rfl rfl⟩
  | hostWriteCmd w =>
    cases h
    exact ⟨_, rfl, hostWriteCmd_agree hmailboxes hbanks w⟩
  | hostWriteTme m v =>
    cases h
    exact ⟨_, rfl, agreeOnSpecified_withFiles hmailboxes hbanks⟩
  | hostRead reg =>
    cases h
    exact ⟨_, congrArg Host.Outcome.next (hmailboxes.hostRead reg),
      agreeOnSpecified_of_seq_eq (cmd' := cmd) hmailboxes hbanks rfl rfl rfl⟩
  | txDone m =>
    cases h
    exact ⟨_, rfl, txDone_agree hmailboxes hbanks m⟩
  | rxArrive w =>
    cases h
    exact ⟨_, rfl, rxArrive_agree hmailboxes hbanks w⟩
  | reset =>
    cases h
    exact ⟨_, rfl, .refl _⟩

end agree

theorem State.takeTurn_withFiles (txmb : Vector Mailbox Config.numMailboxes) (fb : Vector Bank Config.numBanks)
    (cmd : Word) : (s.withFiles txmb fb cmd).takeTurn = s.takeTurn.withFiles txmb fb cmd := by
  unfold State.takeTurn
  rcases hsched : s.sched with _ | ⟨e, rest⟩
  · rcases hlater : s.later with (_ | ⟨e, rest⟩) | n <;> simp [State.withFiles, hsched, hlater]
  · simp [State.withFiles, hsched]

/-- Settles O60: the other state is this one with other mailboxes, banks and CMD, and each turn keeps the agreement. -/
theorem unspecifiedFieldsAreNeverRead : Obligations.UnspecifiedFieldsAreNeverRead := by
  intro s t s' hinv hag h
  obtain ⟨hothers, hmailboxes, hbanks⟩ := agreeOnSpecified_iff.1 hag
  have ht : t = s.withFiles t.txmb t.fb t.cmd := hothers
  generalize t.txmb = txmb, t.fb = fb, t.cmd = cmd at ht
  subst ht
  have hmailboxes' : MailboxesAgree s.takeTurn (s.takeTurn.withFiles txmb fb cmd) :=
    hmailboxes.kept s.takeTurn_txmb rfl fun j => (programmedFields_congr s.takeTurn_seq .tx j).le
  have hbanks' : BanksAgree s.takeTurn (s.takeTurn.withFiles txmb fb cmd) :=
    hbanks.kept s.takeTurn_fb rfl fun j => (programmedFields_congr s.takeTurn_seq .fadd j).le
  rw [step, State.takeTurn_withFiles]
  exact runEvent_agree hmailboxes' hbanks' hinv.takeTurn h

end Sys2Proof.Machine

/-!
One step of the block (R60): which turn comes next, the issue of a command (R77), the host's reads (R56), a completion
(R124), and what one step leaves of a Busy mailbox (R123), an active bank (R147) and the FIFO (R175, R176).
-/

namespace Sys2Proof.Machine

variable {s t : State} {r : Run} {i : Instr} {e : Event} {hasMask : Bool} {m : Fin Config.numMailboxes}
  {k : Fin Config.numBanks}

/-! ### Turns, the issue, and the host's reads -/

theorem decode_tableWord {nbits w : Nat} (h : decodeTableWord nbits w = some i) : decode (tableWord nbits w) = .ok i := by
  unfold decodeTableWord at h
  split at h
  · rename_i hd
    cases h
    exact hd
  · cases h

/-- A loaded legal word is issued, and the next turn is SEQ's (log 17). -/
theorem State.loadCommand_of_legal {w : Word} (h : decode w = .ok i) :
    s.loadCommand w = { s.issue w with sched := .seq :: s.sched } := by
  simp [State.loadCommand, h]

/-- Settles O56: the laws of the turns, and the micro-step of the command in progress. -/
theorem stepRunsTheDecodedCommand : Obligations.StepRunsTheDecodedCommand := by
  refine ⟨fun s r i hr hd hturn => ?_, fun s hidle hturn => ?_, fun s => rfl, fun s e rest => State.turn_planned,
    fun s => State.turn_seqOnly, fun s e rest => State.turn_again, fun s n => State.turn_free,
    fun s nbits w i hw => ?_⟩
  · rw [step, hturn]
    exact seqTurn_run (s.takeTurn_seq.trans hr) hd
  · rw [step, hturn]
    exact seqTurn_idle (s.takeTurn_seq.trans hidle)
  · have hd := decode_tableWord hw
    rw [State.withFetchWord, State.loadCommand_of_legal hd, step_cons rfl]
    exact seqTurn_run (s := s.issue (tableWord nbits w)) rfl hd

theorem Args.get_set_self (a : Args) (j : Fin 4) (v : Word) : (a.set j v).get j = v := by fin_cases j <;> rfl

theorem Args.get_set_of_ne (a : Args) {j l : Fin 4} (v : Word) (h : l ≠ j) : (a.set j v).get l = a.get l := by
  fin_cases j <;> fin_cases l <;> simp [Args.get, Args.set] at h ⊢

/-- Settles O51: the host's legal write is the issue, and its write of an argument register sets that one. -/
theorem issueLatchesTheCommand : Obligations.IssueLatchesTheCommand := by
  refine ⟨fun s w i hidle hd => ?_, fun s j v => ?_⟩
  · refine ⟨s.issue w, congrArg Host.Outcome.next (hostWriteCmd_of_legal hidle hd), rfl, ?_, rspPend_rspIssue _,
      rspSt_rspIssue _, rspEcode_rspIssue _, rspReserved_rspIssue _, rfl⟩
    exact congrArg (Option.map Instr.op) (State.current_run rfl hd)
  · exact ⟨s.hostWriteArg j v, rfl, s.arg.get_set_self j v, fun l hl => s.arg.get_set_of_ne v hl, rfl⟩

/-- Settles O54: each register reads as its field, and a read changes only what the host has seen. -/
theorem statusBitsAndReads : Obligations.StatusBitsAndReads := by
  refine ⟨fun m => ?_, fun s => ⟨fun m => rfl, fun m v => rfl, rfl, rfl, fun e q hq => ?_, fun hq => ?_, rfl, rfl, rfl,
    rfl, rfl, rfl, fun reg => ⟨rfl, ?_⟩⟩⟩
  · exact congrArg not (State.reset_txrq m)
  · simp [State.writeRelease, hq]
  · rw [State.writeRelease, hq]
    exact congrArg (fun q => { s with rxq := q }) hq.symm
  · cases reg <;> rfl

/-! ### A completion, and a Busy mailbox -/

/-- Settles O22: the completion of a Busy mailbox writes its request flag and BUSLOG, that of a Free one nothing. -/
theorem completionLogsAndFrees : Obligations.CompletionLogsAndFrees := by
  refine fun s m => ⟨fun hbusy => ?_, fun hfree => congrArg Host.Outcome.next (txDone_of_free hfree)⟩
  have hdone : s.txDone m = { s.writeTxrq m false with buslog := s.buslog ++ [(s.mailbox m).frameWords] } := if_pos hbusy
  have hmailbox : (s.txDone m).mailbox m = (s.mailbox m).withTxrq false := hdone ▸ mailbox_of_txmb_eq_upd rfl
  refine ⟨s.txDone m, rfl, ?_, ?_, ?_, ?_, onlyMailbox_txDone s m, ?_⟩
  · exact (congrArg Mailbox.txrq hmailbox).trans (Mailbox.txrq_withTxrq _ _)
  · rw [hdone]
    rfl
  · rw [hmailbox, Mailbox.idwField_withTxrq]
  · rw [hmailbox]
    rfl
  · rw [hdone]
    rfl

/-- A mailbox's own completion changes the request flag alone. -/
theorem mailbox_txDone (s : State) (m : Fin Config.numMailboxes) :
    (s.txDone m).mailbox m = s.mailbox m ∨ (s.txDone m).mailbox m = (s.mailbox m).withTxrq false := by
  unfold State.txDone
  split
  · exact .inr (mailbox_of_txmb_eq_upd rfl)
  · exact .inl rfl

/-- Settles O19: a Busy mailbox stands still but for its own completion, which keeps the four fields. -/
theorem busyMailboxKeepsItsWords : Obligations.BusyMailboxKeepsItsWords := by
  intro s t m hinv hreset hbusy h
  by_cases hdone : s.nextTurn = .txDone m
  · have ht : t = s.takeTurn.txDone m := by
      rw [step, hdone] at h
      cases h
      rfl
    obtain hkept | hfreed := mailbox_txDone s.takeTurn m
    · simp [ht, hkept]
    · rw [ht, hfreed, State.takeTurn_mailbox]
      exact ⟨Mailbox.idwField_withTxrq _ _, rfl, rfl, rfl⟩
  · rw [step_mailbox_of_busy hinv hbusy hdone hreset h]
    exact ⟨rfl, rfl, rfl, rfl⟩

/-! ### An active bank -/

/-- FADD changes no bank before upc 2, and from there on only the one its scan stopped at (R141). -/
theorem execFadd_fb_eq_or_onlyBank (h : execFadd hasMask s = .next t) :
    t.fb = s.fb ∨ ∃ (r : Run) (k : Fin Config.numBanks), s.seq = .run r ∧ 2 ≤ r.upc ∧ k.val = r.k ∧ OnlyBank s t k := by
  obtain ⟨r, hr, ⟨-, rfl⟩ | ⟨-, ⟨j, -, -, rfl⟩ | ⟨-, -, rfl⟩ | ⟨k, hk, hscan⟩⟩⟩ := execFadd_next h
  · exact .inl rfl
  · exact .inl rfl
  · exact .inl rfl
  · obtain ⟨-, -, -, rfl⟩ | ⟨-, -, -, rfl⟩ | ⟨-, -, rfl⟩ | ⟨hu, rfl⟩ | ⟨hu, rfl⟩ | ⟨hu, rfl⟩ | ⟨hu, rfl⟩ | ⟨hu, rfl⟩ :=
      hscan
    · exact .inl rfl
    · exact .inl rfl
    · exact .inl rfl
    all_goals exact .inr ⟨r, k, hr, by omega, hk, onlyBank_of_fb_eq_upd rfl⟩

/-- FADD leaves an active bank as it is: the bank it programs is inactive. -/
theorem execFadd_bank_of_active (hr : s.seq = .run r) (hpos : faddPosition hasMask r s) (hact : (s.bank k).act = true)
    (h : execFadd hasMask s = .next t) : t.bank k = s.bank k := by
  obtain hfb | ⟨q, j, hq, hu, hj, honly⟩ := execFadd_fb_eq_or_onlyBank h
  · exact State.bank_congr s t hfb k
  · obtain rfl : q = r := by simpa [hq] using hr
    obtain ⟨-, -, -, -, hwritten⟩ := hpos
    have hoff : (s.bank j).act = false := (hwritten j hj).1 hu
    exact honly k fun hkj => by simp [hkj, hoff] at hact

/-- A micro-step changes of an active bank at most its activation flag. -/
theorem exec_bank_of_active (hr : s.seq = .run r) (hpos : inPosition i r s) (hact : (s.bank k).act = true)
    (h : exec i s = .next t) : t.bank k = { s.bank k with act := (t.bank k).act } := by
  have hkept (hbank : t.bank k = s.bank k) : t.bank k = { s.bank k with act := (t.bank k).act } := by rw [hbank]
  cases i with
  | enc ext rtr dlc => exact hkept (State.bank_congr s t (execEnc_fb h) k)
  | dec => exact hkept (State.bank_congr s t (execDec_fb h) k)
  | tx ext rtr dlc => exact hkept (State.bank_congr s t (execTx_fb h) k)
  | rx => exact hkept (State.bank_congr s t (execRx_fb h) k)
  | fadd hasMask => exact hkept (execFadd_bank_of_active hr hpos hact h)
  | frem => exact execFrem_bank h k
  | fclr => exact execFclr_bank h k
  | fcnt => exact hkept (State.bank_congr s t (execFcnt_fb h) k)

/-- No turn but SEQ's and a reset changes a bank. -/
theorem runEvent_fb (hseq : e ≠ .seq) (hreset : e ≠ .reset) (h : runEvent e s = .next t) : t.fb = s.fb := by
  cases e with
  | seq => exact absurd rfl hseq
  | hostWriteArg j v => cases h; rfl
  | hostWriteCmd w => cases h; exact hostWriteCmd_fb s w
  | hostWriteTme m v => cases h; rfl
  | hostRead reg => cases h; rfl
  | txDone m => cases h; exact txDone_fb s m
  | rxArrive w => cases h; exact rxArrive_fb s w
  | reset => exact absurd rfl hreset

theorem step_bank_of_active (hinv : Inv s) (hreset : s.nextTurn ≠ .reset) (hact : (s.bank k).act = true)
    (h : step s = .next t) : t.bank k = { s.bank k with act := (t.bank k).act } := by
  rw [← s.takeTurn_bank k] at hact ⊢
  obtain ⟨-, hturn⟩ | ⟨hseq, hturn⟩ := step_next h
  · obtain ⟨-, rfl⟩ | ⟨r, i, hr, hd, hexec⟩ := seqTurn_next hturn
    · rfl
    · exact exec_bank_of_active hr (hinv.takeTurn.inPosition hr hd) hact hexec
  · rw [State.bank_congr _ t (runEvent_fb hseq hreset hturn) k]

/-- Settles O35: one step by the lemma above, the selection values by the invariant of reachable states. -/
theorem activeBankKeepsItsFields : Obligations.ActiveBankKeepsItsFields :=
  ⟨fun _ _ _ hinv hreset hact h => step_bank_of_active hinv hreset hact h, fun _ ht => (inv_of_reachable ht).selected⟩

/-! ### The FIFO -/

@[simp] theorem hostWriteCmd_rxq (s : State) (w : Word) : (s.hostWriteCmd w).rxq = s.rxq := by
  unfold State.hostWriteCmd
  split
  · rfl
  · split <;> rfl

/-- What an arrival does to a FIFO within its depth (R170). -/
theorem enqueue_cases {p : Params} {q : List FrameWords} (w : FrameWords) (hfits : q.length ≤ p.rxDepth) :
    enqueue p q w = q ∨ (q.length < p.rxDepth ∧ enqueue p q w = q ++ [w]) ∨
      (q.length = p.rxDepth ∧ p.rxOverrun = .overwriteLast ∧ enqueue p q w = q.dropLast ++ [w]) := by
  by_cases hlt : q.length < p.rxDepth
  · exact .inr (.inl ⟨hlt, enqueue_of_lt hlt⟩)
  · have hfull : p.rxDepth ≤ q.length := not_lt.1 hlt
    cases ho : p.rxOverrun with
    | discardNew => exact .inl (enqueue_of_full_discardNew hfull ho)
    | overwriteLast => exact .inr (.inr ⟨hfits.antisymm hfull, rfl, enqueue_of_full_overwriteLast hfull ho⟩)

/-- RX's release removes the head, and its results are the frame decoded from the entry that was read (R174). -/
theorem execRx_takesHead (hr : s.seq = .run r) (hpos : rxPosition r s) (h : execRx s = .next t) :
    t.rxq = s.rxq ∨ ∃ e f, r.upc = 2 ∧ s.rxq = e :: t.rxq ∧ t.seq = .idle ∧ rspSt t.rsp = Status.ok.code ∧
      decodeFrame r.snap.e = some f ∧ t.res = decodedResults f ∧
      (r.snap.e = e ∨ (s.params.rxDepth = 1 ∧ s.params.rxOverrun = .overwriteLast)) := by
  obtain ⟨p, hp, hcase⟩ := execRx_next h
  obtain rfl : p = r := by simpa [hp] using hr
  obtain ⟨-, rfl⟩ | ⟨-, ⟨-, -, rfl⟩ | ⟨-, -, rfl⟩ | ⟨e, q, -, -, -, rfl⟩ | ⟨e, q, f, -, -, -, rfl⟩ | ⟨hu, rfl⟩⟩ := hcase
  · exact .inl rfl
  · exact .inl rfl
  · exact .inl rfl
  · exact .inl rfl
  · exact .inl rfl
  · obtain ⟨-, -, hne, hread⟩ := hpos
    obtain ⟨hdecoded, hhead⟩ := hread hu.ge
    obtain ⟨e, q, hq⟩ := List.exists_cons_of_ne_nil (hne (by omega))
    refine .inr ⟨e, p.snap.r, hu, ?_, rfl, rspSt_rspRespond _ _, hdecoded, rfl, hhead.imp_left fun heq => ?_⟩
    · simp [hq]
    · simpa [hq, eq_comm] using heq

/-- Settles O29: RX is the one command, an arrival and a reset the only other turns, that change the FIFO. -/
theorem fifoKeepsArrivalOrder : Obligations.FifoKeepsArrivalOrder := by
  intro s t hinv h
  have hinv' := hinv.takeTurn
  obtain ⟨-, hturn⟩ | ⟨hseq, hturn⟩ := step_next h
  · obtain ⟨-, rfl⟩ | ⟨r, i, hr, hd, hexec⟩ := seqTurn_next hturn
    · exact .inl s.takeTurn_rxq
    by_cases hi : i.op = .rx
    · cases i with
      | rx =>
        have hrx := execRx_takesHead hr (hinv'.inPosition hr hd) hexec
        simp only [State.takeTurn_rxq, State.takeTurn_params] at hrx
        rw [State.takeTurn_seq] at hr
        obtain hkept | ⟨e, f, hu, hq, hrelease⟩ := hrx
        · exact .inl hkept
        · exact .inr (.inr (.inr (.inl ⟨r, e, f, hr, State.current_run hr hd, hu, hq, hrelease⟩)))
      | _ => cases hi
    · exact .inl ((exec_rxq_of_ne_rx hi hexec).trans s.takeTurn_rxq)
  · cases he : s.nextTurn with
    | seq => exact absurd he hseq
    | hostWriteArg j v => rw [he] at hturn; cases hturn; exact .inl s.takeTurn_rxq
    | hostWriteCmd w => rw [he] at hturn; cases hturn; exact .inl ((hostWriteCmd_rxq _ w).trans s.takeTurn_rxq)
    | hostWriteTme m v => rw [he] at hturn; cases hturn; exact .inl s.takeTurn_rxq
    | hostRead reg => rw [he] at hturn; cases hturn; exact .inl s.takeTurn_rxq
    | txDone m => rw [he] at hturn; cases hturn; exact .inl ((txDone_rxq _ m).trans s.takeTurn_rxq)
    | rxArrive w =>
      rw [he] at hturn
      cases hturn
      cases hacc : s.takeTurn.accepts w.idw with
      | false => exact .inl (by rw [State.rxArrive_of_rejected hacc, State.takeTurn_rxq])
      | true =>
        rw [State.rxArrive_of_accepted hacc rfl, State.takeTurn_params, State.takeTurn_rxq]
        obtain hkept | ⟨hlt, happended⟩ | ⟨hfull, hover, hreplaced⟩ := enqueue_cases w hinv.fifo
        · exact .inl hkept
        · exact .inr (.inl ⟨w, rfl, hlt, happended⟩)
        · exact .inr (.inr (.inl ⟨w, rfl, hfull, hover, hreplaced⟩))
    | reset => rw [he] at hturn; cases hturn; exact .inr (.inr (.inr (.inr ⟨rfl, rfl⟩)))

/-! ### No filter, no reception -/

/-- Without an active bank nothing is accepted (R172). -/
theorem State.accepts_of_noActive (h : ∀ k, (s.bank k).act = false) (idw : Word) : s.accepts idw = false := by
  rw [Bool.eq_false_iff]
  intro hacc
  obtain ⟨k, hk⟩ := State.accepts_iff.1 hacc
  simp [bankAdmits, h k] at hk

theorem runEvent_rxq_of_noActive (hoff : ∀ k, (s.bank k).act = false) (hq : s.rxq = []) (h : runEvent e s = .next t) :
    t.rxq = [] := by
  cases e with
  | seq =>
    obtain ⟨-, rfl⟩ | ⟨r, i, -, -, hexec⟩ := seqTurn_next h
    · exact hq
    · exact List.length_eq_zero_iff.1 (Nat.le_zero.1 (by simpa [hq] using length_rxq_exec_le hexec))
  | hostWriteArg j v => cases h; exact hq
  | hostWriteCmd w => cases h; exact (hostWriteCmd_rxq s w).trans hq
  | hostWriteTme m v => cases h; exact hq
  | hostRead reg => cases h; exact hq
  | txDone m => cases h; exact (txDone_rxq s m).trans hq
  | rxArrive w => cases h; rw [State.rxArrive_of_rejected (State.accepts_of_noActive hoff w.idw), hq]
  | reset => cases h; rfl

/-- A run along which no bank is active keeps an empty FIFO empty. -/
theorem runSteps_rxq_of_noActive {n : Nat} (hq : s.rxq = []) (h : runSteps n s = .next t)
    (hoff : ∀ j u, j ≤ n → runSteps j s = .next u → ∀ k, (u.bank k).act = false) : t.rxq = [] := by
  induction n generalizing t with
  | zero =>
    cases h
    exact hq
  | succ n ih =>
    obtain ⟨u, hu, hstep⟩ := runSteps_last h
    have hqu : u.takeTurn.rxq = [] :=
      u.takeTurn_rxq.trans (ih hu fun j v hj hv => hoff j v (hj.trans n.le_succ) hv)
    have hoffu (k : Fin Config.numBanks) : (u.takeTurn.bank k).act = false :=
      (congrArg Bank.act (u.takeTurn_bank k)).trans (hoff n u n.le_succ hu k)
    exact runEvent_rxq_of_noActive hoffu hqu hstep

/-- A whole RX on an empty FIFO (R174). -/
theorem runSteps_rx_of_empty {w : Word} (hs : s.seqOnly) (hd : decode w = .ok .rx) (hq : s.rxq = []) :
    runSteps 1 (s.issue w) = .next ((s.issue w).respond .retryLater) :=
  runSteps_snoc rfl ((step_of_run (s := s.issue w) hs rfl hd).trans (exec_rx_of_empty (atStep_issue s w) hq))

/-- Settles O30: a run without an active bank, RX on an empty FIFO, and the one micro-step that makes a bank active. -/
theorem noFilterNoReception : Obligations.NoFilterNoReception := by
  refine ⟨fun p turns later n t h hoff => ?_, fun s w hs hd hq => ?_, fun s t k h hfree hset => ?_⟩
  · exact runSteps_rxq_of_noActive rfl h hoff
  · refine ⟨_, runSteps_rx_of_empty hs hd hq, ?_, rfl⟩
    exact (responded_respond (s.issue w) (by decide)).of_rspReserved_eq (rspReserved_rspIssue _)
  · have hfree' : (s.takeTurn.bank k).act = false := s.takeTurn_bank k ▸ hfree
    obtain ⟨r, i, hr, hd, hexec⟩ := step_sets_act hfree h hset
    by_cases hi : i.op = .fadd
    · cases i with
      | fadd hasMask =>
        obtain ⟨hu, -⟩ := execFadd_sets_act (s.takeTurn_seq.trans hr) hfree' hexec hset
        exact ⟨r, hasMask, hr, hd, hu⟩
      | _ => cases hi
    · simp [exec_act_of_inactive hi hfree' hexec] at hset

end Sys2Proof.Machine

/-!
What a micro-step does not look at: the latched argument registers its command does not use (R78), and the turns to come.
So a command runs under a plan of SEQ's turns as it does alone (R224), and a host's script is its command's run.
-/

namespace Sys2Proof.Machine

variable {s t u : State} {r : Run} {i : Instr} {ext rtr hasMask : Bool} {dlc n : Nat} {a : Args} {l rest : List Event}
  {la : Later}

/-! ### The state with other unread words -/

/-- SEQ with other latched argument registers. -/
def Seq.withArg (q : Seq) (a : Args) : Seq :=
  match q with
  | .idle => .idle
  | .run r => .run { r with arg := a }

/-- The state with other latched argument registers and another plan of turns. -/
def State.withUnread (s : State) (a : Args) (l : List Event) (la : Later) : State :=
  { s with seq := s.seq.withArg a, sched := l, later := la }

theorem State.withUnread_seq (hr : s.seq = .run r) (a : Args) (l : List Event) (la : Later) :
    (s.withUnread a l la).seq = .run { r with arg := a } := congrArg (Seq.withArg · a) hr

theorem State.atStep_withUnread {upc : Nat} (h : s.atStep r upc) (a : Args) (l : List Event) (la : Later) :
    (s.withUnread a l la).atStep { r with arg := a } upc := ⟨State.withUnread_seq h.1 a l la, h.2⟩

/-- `a` holds what the command `i` uses of the argument registers `b` (R78). -/
def SameUsedArgs (i : Instr) (a b : Args) : Prop :=
  match i with
  | .enc _ _ _ => a = { b with arg3 := a.arg3 }
  | .tx _ _ _ => a = { b with arg3 := a.arg3 }
  | .dec => a = b
  | .fadd hasMask => a.arg0 = b.arg0 ∧ (hasMask = true → a.arg1 = b.arg1)
  | .frem => a.arg0 = b.arg0
  | .rx => True
  | .fclr => True
  | .fcnt => True

theorem SameUsedArgs.refl (i : Instr) (a : Args) : SameUsedArgs i a a := by
  cases i with
  | fadd hasMask => exact ⟨rfl, fun _ => rfl⟩
  | rx => trivial
  | fclr => trivial
  | fcnt => trivial
  | _ => rfl

/-- ENC and TX do not use ARG3: not for the frame, and not for the fault's record (R203). -/
theorem frameOperand_congr {b : Args} (h : a = { b with arg3 := a.arg3 }) :
    frameOperand ext rtr dlc a = frameOperand ext rtr dlc b := by
  rw [h]
  rfl

theorem preconditionRecord_congr (op : Op) (h : a = { r.arg with arg3 := a.arg3 }) :
    preconditionRecord op { r with arg := a } = preconditionRecord op r := by
  rw [h]
  rfl

/-- FADD uses ARG1 with a mask alone. -/
theorem maskOperand_congr {b : Args} (h : hasMask = true → a.arg1 = b.arg1) :
    (if hasMask then a.arg1 else 0xFFFFFFFF) = if hasMask then b.arg1 else 0xFFFFFFFF := by
  cases hasMask with
  | false => rfl
  | true => exact h rfl

/-! ### One micro-step -/

section exec
variable (hr : s.seq = .run r)
include hr

theorem exec_stopped_withUnread (hs : r.stopped = true) : exec i (s.withUnread a l la) = .next (s.withUnread a l la) :=
  exec_of_stopped (State.withUnread_seq hr a l la) hs i

theorem execEnc_withUnread (ha : SameUsedArgs (.enc ext rtr dlc) a r.arg) (h : execEnc ext rtr dlc s = .next t) :
    execEnc ext rtr dlc (s.withUnread a l la) = .next (t.withUnread a l la) := by
  have hframe := frameOperand_congr (ext := ext) (rtr := rtr) (dlc := dlc) ha
  obtain ⟨q, hq, hcase⟩ := execEnc_next h
  obtain rfl : q = r := by simpa [hq] using hr
  obtain ⟨hs, rfl⟩ | ⟨hs, hu, ⟨hwf, rfl⟩ | ⟨hwf, rfl⟩⟩ := hcase
  · exact exec_stopped_withUnread (i := .enc ext rtr dlc) hq hs
  · rw [← hframe] at hwf ⊢
    exact exec_enc_of_wellFormed (r := { q with arg := a }) (State.atStep_withUnread ⟨hq, hs, hu⟩ a l la) hwf
  · rw [← hframe] at hwf
    rw [← preconditionRecord_congr .enc ha]
    exact exec_enc_of_illFormed (r := { q with arg := a }) (State.atStep_withUnread ⟨hq, hs, hu⟩ a l la) hwf

theorem execDec_withUnread (ha : SameUsedArgs .dec a r.arg) (h : execDec s = .next t) :
    execDec (s.withUnread a l la) = .next (t.withUnread a l la) := by
  obtain ⟨q, hq, hcase⟩ := execDec_next h
  obtain rfl : q = r := by simpa [hq] using hr
  obtain rfl : a = q.arg := ha
  obtain ⟨hs, rfl⟩ | ⟨hs, hu, ⟨f, hf, rfl⟩ | ⟨hf, rfl⟩⟩ := hcase
  · exact exec_stopped_withUnread (i := .dec) hq hs
  · exact exec_dec_of_some (r := q) (State.atStep_withUnread ⟨hq, hs, hu⟩ q.arg l la) hf
  · exact exec_dec_of_none (r := q) (State.atStep_withUnread ⟨hq, hs, hu⟩ q.arg l la) hf

theorem execTx_withUnread (ha : SameUsedArgs (.tx ext rtr dlc) a r.arg) (h : execTx ext rtr dlc s = .next t) :
    execTx ext rtr dlc (s.withUnread a l la) = .next (t.withUnread a l la) := by
  have hframe := frameOperand_congr (ext := ext) (rtr := rtr) (dlc := dlc) ha
  obtain ⟨q, hq, hcase⟩ := execTx_next h
  obtain rfl : q = r := by simpa [hq] using hr
  obtain ⟨hs, rfl⟩ | ⟨hs, ⟨hu, hwf, rfl⟩ | ⟨hu, hwf, rfl⟩ | ⟨m, hm, hscan⟩⟩ := hcase
  · exact exec_stopped_withUnread (i := .tx ext rtr dlc) hq hs
  · rw [← hframe] at hwf ⊢
    exact exec_tx_of_wellFormed (r := { q with arg := a }) (State.atStep_withUnread ⟨hq, hs, hu⟩ a l la) hwf
  · rw [← hframe] at hwf
    rw [← preconditionRecord_congr .tx ha]
    exact exec_tx_of_illFormed (r := { q with arg := a }) (State.atStep_withUnread ⟨hq, hs, hu⟩ a l la) hwf
  · have hat {n : Nat} (hn : q.upc = n) : (s.withUnread a l la).atStep { q with arg := a } n :=
      State.atStep_withUnread ⟨hq, hs, hn⟩ a l la
    have hm' : m.val = ({ q with arg := a } : Run).k := hm
    obtain ⟨hu, hbusy, hlt, rfl⟩ | ⟨hu, hbusy, hlast, rfl⟩ | ⟨hu, hfree, rfl⟩ | ⟨hu, rfl⟩ | ⟨hu, rfl⟩ | ⟨hu, rfl⟩ |
      ⟨hu, rfl⟩ | ⟨hu, rfl⟩ := hscan
    · exact (exec_tx_scan_of_busy hm' (hat hu) hbusy).trans (scanOn_of_lt _ hlt)
    · exact (exec_tx_scan_of_busy hm' (hat hu) hbusy).trans (scanOn_of_not_lt _ hlast)
    · exact exec_tx_scan_of_free hm' (hat hu) hfree
    · exact exec_tx_writeTir hm' (hat hu)
    · exact exec_tx_writeDlc hm' (hat hu)
    · exact exec_tx_writeTdlr hm' (hat hu)
    · exact exec_tx_writeTdhr hm' (hat hu)
    · exact exec_tx_writeTxrq hm' (hat hu)

theorem execRx_withUnread (h : execRx s = .next t) : execRx (s.withUnread a l la) = .next (t.withUnread a l la) := by
  obtain ⟨p, hp, hcase⟩ := execRx_next h
  obtain rfl : p = r := by simpa [hp] using hr
  have hat {n : Nat} (hs : p.stopped = false) (hn : p.upc = n) : (s.withUnread a l la).atStep { p with arg := a } n :=
    State.atStep_withUnread ⟨hp, hs, hn⟩ a l la
  obtain ⟨hs, rfl⟩ | ⟨hs, ⟨hu, hq, rfl⟩ | ⟨hu, hne, rfl⟩ | ⟨e, q, hu, hq, hf, rfl⟩ | ⟨e, q, f, hu, hq, hf, rfl⟩ |
    ⟨hu, rfl⟩⟩ := hcase
  · exact exec_stopped_withUnread (i := .rx) hp hs
  · exact exec_rx_of_empty (hat hs hu) hq
  · exact exec_rx_of_nonempty (hat hs hu) hne
  · exact exec_rx_decode_of_none (hat hs hu) hq hf
  · exact exec_rx_decode_of_some (hat hs hu) hq hf
  · exact exec_rx_release (r := { p with arg := a }) (hat hs hu)

theorem execFadd_withUnread (ha : SameUsedArgs (.fadd hasMask) a r.arg) (h : execFadd hasMask s = .next t) :
    execFadd hasMask (s.withUnread a l la) = .next (t.withUnread a l la) := by
  obtain ⟨hfid, hmask⟩ := ha
  obtain ⟨q, hq, hcase⟩ := execFadd_next h
  obtain rfl : q = r := by simpa [hq] using hr
  have hat {n : Nat} (hs : q.stopped = false) (hn : q.upc = n) : (s.withUnread a l la).atStep { q with arg := a } n :=
    State.atStep_withUnread ⟨hq, hs, hn⟩ a l la
  obtain ⟨hs, rfl⟩ | ⟨hs, ⟨j, hu, hj, rfl⟩ | ⟨hu, hnone, rfl⟩ | ⟨k, hk, hscan⟩⟩ := hcase
  · exact exec_stopped_withUnread (i := .fadd hasMask) hq hs
  · rw [← hfid] at hj ⊢
    exact exec_fadd_of_duplicate (hat hs hu) hj
  · rw [← hfid] at hnone
    exact exec_fadd_of_noDuplicate (hat hs hu) hnone
  · have hk' : k.val = ({ q with arg := a } : Run).k := hk
    obtain ⟨hu, hact, hlt, rfl⟩ | ⟨hu, hact, hlast, rfl⟩ | ⟨hu, hact, rfl⟩ | ⟨hu, rfl⟩ | ⟨hu, rfl⟩ | ⟨hu, rfl⟩ |
      ⟨hu, rfl⟩ | ⟨hu, rfl⟩ := hscan
    · exact (exec_fadd_scan_of_active hk' (hat hs hu) hact).trans (scanOn_of_lt _ hlt)
    · exact (exec_fadd_scan_of_active hk' (hat hs hu) hact).trans (scanOn_of_not_lt _ hlast)
    · exact exec_fadd_scan_of_inactive hk' (hat hs hu) hact
    · exact exec_fadd_writeMsa hk' (hat hs hu)
    · exact exec_fadd_writeMsb hk' (hat hs hu)
    · rw [← hfid]
      exact exec_fadd_writeFid hk' (hat hs hu)
    · rw [filterMask_filterOperand, ← maskOperand_congr hmask]
      exact exec_fadd_writeFmask hk' (hat hs hu)
    · exact exec_fadd_writeAct hk' (hat hs hu)

theorem execFrem_withUnread (ha : SameUsedArgs .frem a r.arg) (h : execFrem s = .next t) :
    execFrem (s.withUnread a l la) = .next (t.withUnread a l la) := by
  have hfid : a.arg0 = r.arg.arg0 := ha
  obtain ⟨q, hq, hcase⟩ := execFrem_next h
  obtain rfl : q = r := by simpa [hq] using hr
  have hat {n : Nat} (hs : q.stopped = false) (hn : q.upc = n) : (s.withUnread a l la).atStep { q with arg := a } n :=
    State.atStep_withUnread ⟨hq, hs, hn⟩ a l la
  obtain ⟨hs, rfl⟩ | ⟨hs, ⟨hu, rfl⟩ | ⟨k, hk, hscan⟩⟩ := hcase
  · exact exec_stopped_withUnread (i := .frem) hq hs
  · exact exec_frem_start (hat hs hu)
  · have hk' : k.val = ({ q with arg := a } : Run).k := hk
    have hpass' (hpass : (q.upc = 1 ∧ (s.bank k).act = false) ∨ (q.upc = 2 ∧ (s.bank k).fid ≠ q.arg.arg0)) :=
      exec_frem_passOver (s := s.withUnread a l la) hk'
        (hpass.imp (fun ⟨hu, hoff⟩ => ⟨hat hs hu, hoff⟩) fun ⟨hu, hne⟩ => ⟨hat hs hu, hfid.symm ▸ hne⟩)
    obtain ⟨hu, hact, rfl⟩ | ⟨hu, heq, rfl⟩ | ⟨hpass, hlt, rfl⟩ | ⟨hpass, hlast, rfl⟩ | ⟨hu, rfl⟩ := hscan
    · exact exec_frem_scan_of_active hk' (hat hs hu) hact
    · exact exec_frem_compare_of_eq hk' (hat hs hu) (heq.trans hfid.symm)
    · exact (hpass' hpass).trans (scanOn_of_lt _ hlt)
    · exact (hpass' hpass).trans (scanOn_of_not_lt _ hlast)
    · exact exec_frem_writeAct hk' (hat hs hu)

theorem execFclr_withUnread (h : execFclr s = .next t) :
    execFclr (s.withUnread a l la) = .next (t.withUnread a l la) := by
  obtain ⟨q, hq, hcase⟩ := execFclr_next h
  obtain rfl : q = r := by simpa [hq] using hr
  obtain ⟨hs, rfl⟩ | ⟨hs, hu, k, hk, hscan⟩ := hcase
  · exact exec_stopped_withUnread (i := .fclr) hq hs
  · have hstep := exec_fclr (r := { q with arg := a }) hk (State.atStep_withUnread ⟨hq, hs, hu⟩ a l la)
    obtain ⟨hlt, rfl⟩ | ⟨hlast, rfl⟩ := hscan
    · exact hstep.trans (scanOn_of_lt _ hlt)
    · exact hstep.trans (scanOn_of_not_lt _ hlast)

theorem execFcnt_withUnread (h : execFcnt s = .next t) :
    execFcnt (s.withUnread a l la) = .next (t.withUnread a l la) := by
  obtain ⟨q, hq, hcase⟩ := execFcnt_next h
  obtain rfl : q = r := by simpa [hq] using hr
  obtain ⟨hs, rfl⟩ | ⟨hs, hu, k, hk, c, hc, hscan⟩ := hcase
  · exact exec_stopped_withUnread (i := .fcnt) hq hs
  · have hstep := exec_fcnt (r := { q with arg := a }) hk (State.atStep_withUnread ⟨hq, hs, hu⟩ a l la) hc
    obtain ⟨hlt, rfl⟩ | ⟨hlast, rfl⟩ := hscan
    · exact hstep.trans (scanOn_of_lt _ hlt)
    · exact hstep.trans (scanOn_of_not_lt _ hlast)

/-- A micro-step does the same with other unused argument registers and under any plan. -/
theorem exec_withUnread (ha : SameUsedArgs i a r.arg) (h : exec i s = .next t) :
    exec i (s.withUnread a l la) = .next (t.withUnread a l la) := by
  cases i with
  | enc ext rtr dlc => exact execEnc_withUnread hr ha h
  | dec => exact execDec_withUnread hr ha h
  | tx ext rtr dlc => exact execTx_withUnread hr ha h
  | rx => exact execRx_withUnread hr h
  | fadd hasMask => exact execFadd_withUnread hr ha h
  | frem => exact execFrem_withUnread hr ha h
  | fclr => exact execFclr_withUnread hr h
  | fcnt => exact execFcnt_withUnread hr h

end exec

theorem exec_sched (h : exec i s = .next t) : t.sched = s.sched := by rw [exec_frame h]

theorem exec_later (h : exec i s = .next t) : t.later = s.later := by rw [exec_frame h]

/-- Settles O52: the other run is the state with other unread words and the same plan. -/
theorem unusedArgumentsAreNeverRead : Obligations.UnusedArgumentsAreNeverRead := by
  intro s t i r a hr h ha
  have hsame : SameUsedArgs i a r.arg := by cases i <;> exact ha
  have hs : s.withUnread a s.sched s.later = { s with seq := .run { r with arg := a } } := by
    rw [State.withUnread, hr]
    rfl
  rw [← hs, exec_withUnread hr hsame h, ← exec_sched h, ← exec_later h]
  rfl

/-! ### The plan of turns -/

/-- The state with another plan of turns. -/
def State.withPlan (s : State) (l : List Event) (la : Later) : State := { s with sched := l, later := la }

theorem State.withUnread_arg (hr : s.seq = .run r) : s.withUnread r.arg l la = s.withPlan l la := by
  rw [State.withUnread, State.withPlan, hr]
  rfl

/-- A command never changes its latched arguments, so it runs alike under any plan. -/
theorem exec_withPlan (hr : s.seq = .run r) (h : exec i s = .next t) :
    exec i (s.withPlan l la) = .next (t.withPlan l la) := by
  have hstep := exec_withUnread (l := l) (la := la) hr (SameUsedArgs.refl i r.arg) h
  rw [State.withUnread_arg hr] at hstep
  rw [hstep]
  cases exec_seqMove h with
  | goesOn q q' hq hq' hcmd harg hrsp hres hfaults =>
    obtain rfl : q = r := by simpa [hq] using hr
    rw [← harg, State.withUnread_arg hq']
  | ends st hst hidle hrsp hfaults =>
    rw [State.withUnread, State.withPlan, hidle]
    rfl

theorem seqTurn_withPlan (h : seqTurn s = .next t) : seqTurn (s.withPlan l la) = .next (t.withPlan l la) := by
  obtain ⟨hidle, rfl⟩ | ⟨r, i, hr, hd, hexec⟩ := seqTurn_next h
  · exact seqTurn_idle hidle
  · exact (seqTurn_run (s := s.withPlan l la) hr hd).trans (exec_withPlan hr hexec)

theorem seqTurn_seqOnly (hs : s.seqOnly) (h : seqTurn s = .next t) : t.seqOnly := by
  obtain ⟨-, rfl⟩ | ⟨r, i, -, -, hexec⟩ := seqTurn_next h
  · exact hs
  · exact ⟨(exec_sched hexec).trans hs.1, (exec_later hexec).trans hs.2⟩

/-- The first turn of a plan is taken and run. -/
theorem step_withPlan (e : Event) : step (s.withPlan (e :: l) la) = runEvent e (s.withPlan l la) :=
  step_cons (s := s.withPlan (e :: l) la) rfl

/-- What SEQ does alone it does when `n` turns are planned for it. -/
theorem runSteps_withPlan (hs : s.seqOnly) (h : runSteps n s = .next t) :
    runSteps n (s.withPlan (List.replicate n .seq ++ rest) la) = .next (t.withPlan rest la) := by
  induction n generalizing s with
  | zero =>
    cases h
    rfl
  | succ n ih =>
    unfold runSteps at h
    split at h
    · rename_i v hv
      rw [step_seqOnly hs] at hv
      have hstep : step (s.withPlan (.seq :: (List.replicate n .seq ++ rest)) la) =
          .next (v.withPlan (List.replicate n .seq ++ rest) la) := (step_withPlan _).trans (seqTurn_withPlan hv)
      exact (runSteps_succ hstep).trans (ih (seqTurn_seqOnly hs hv) h)
    · cases h
    · cases h

/-- SEQ's turns while Idle change nothing but the plan (log 3). -/
theorem runSteps_seq_of_idle (hidle : s.seq = .idle) :
    runSteps n (s.withPlan (List.replicate n .seq ++ rest) la) = .next (s.withPlan rest la) := by
  induction n with
  | zero => rfl
  | succ n ih =>
    rw [List.replicate_succ, runSteps_succ, ih]
    exact seqTurn_idle hidle

/-- A run is its first `n` steps and the rest of its plan. -/
theorem runSteps_append {m : Nat} (h : runSteps m s = .next t) (h' : runSteps n t = .next u) :
    runSteps (m + n) s = .next u := (runSteps_add h).trans h'

/-! ### A host's script -/

/-- The host has written the argument registers, and no other agent has a turn. -/
def State.ready (s : State) (a : Args) : State := { s with arg := a }.withPlan [] (.again [])

theorem State.ready_seqOnly (s : State) (a : Args) : (s.ready a).seqOnly := ⟨rfl, rfl⟩

/-- The host's writes of the argument registers. -/
theorem step_hostWriteArg (j : Fin 4) (v : Word) :
    step (s.withPlan (.hostWriteArg j v :: l) la) = .next ({ s with arg := s.arg.set j v }.withPlan l la) :=
  step_withPlan _

theorem Args.set_all (b a : Args) : (((b.set 0 a.arg0).set 1 a.arg1).set 2 a.arg2).set 3 a.arg3 = a := rfl

theorem runSteps_hostWriteArgs :
    runSteps 4 (s.withPlan (.hostWriteArg 0 a.arg0 :: .hostWriteArg 1 a.arg1 :: .hostWriteArg 2 a.arg2 ::
      .hostWriteArg 3 a.arg3 :: rest) la) = .next ({ s with arg := a }.withPlan rest la) := by
  rw [runSteps_succ (step_hostWriteArg 0 _), runSteps_succ (step_hostWriteArg 1 _),
    runSteps_succ (step_hostWriteArg 2 _), runSteps_succ (step_hostWriteArg 3 _), runSteps_zero]
  exact congrArg (fun b => Host.Outcome.next ({ s with arg := b }.withPlan rest la)) (s.arg.set_all a)

theorem hostScript_eq (h : maxMicroSteps i.op = n) (a : Args) :
    hostScript i a = .hostWriteArg 0 a.arg0 :: .hostWriteArg 1 a.arg1 :: .hostWriteArg 2 a.arg2 ::
      .hostWriteArg 3 a.arg3 :: .hostWriteCmd (encode i) :: List.replicate n .seq := by
  rw [hostScript, h]
  rfl

/-- A host's script is the run of its command, then turns of SEQ that change nothing. -/
theorem runSteps_hostScript (hidle : s.seq = .idle) (hd : decode (encode i) = .ok i)
    (hsched : s.sched = hostScript i a ++ rest) (hn : n ≤ maxMicroSteps i.op)
    (hrun : runSteps n ((s.ready a).issue (encode i)) = .next t) (hend : t.seq = .idle) :
    runSteps (hostScript i a).length s = .next (t.withPlan rest s.later) := by
  obtain ⟨idle, hmax⟩ := Nat.exists_eq_add_of_le hn
  have hscript := hostScript_eq hmax a
  have hlength : (hostScript i a).length = 4 + (1 + (n + idle)) := by
    rw [hscript]
    simp only [List.length_cons, List.length_replicate]
    omega
  have hplan : s.withPlan (hostScript i a ++ rest) s.later = s := by
    rw [← hsched]
    rfl
  have hissue : runSteps 1 ({ s with arg := a }.withPlan
      (.hostWriteCmd (encode i) :: (List.replicate (n + idle) Event.seq ++ rest)) s.later) =
      .next (((s.ready a).issue (encode i)).withPlan (List.replicate (n + idle) .seq ++ rest) s.later) :=
    runSteps_snoc rfl ((step_withPlan _).trans (congrArg Host.Outcome.next (hostWriteCmd_of_legal hidle hd)))
  rw [hlength, ← hplan, hscript]
  refine runSteps_append runSteps_hostWriteArgs (runSteps_append hissue ?_)
  rw [List.replicate_add, List.append_assoc]
  exact runSteps_append (runSteps_withPlan (s.ready_seqOnly a) hrun) (runSteps_seq_of_idle hend)

end Sys2Proof.Machine

/-!
A whole TX with no other agent's turn (R120, R121): the frame lands in the lowest Free mailbox, or RETRY_LATER.
-/

namespace Sys2Proof.Machine

variable {s t : State} {r r' : Run} {i : Instr} {ext rtr : Bool} {dlc n : Nat} {st : Status}
  {m : Fin Config.numMailboxes} {k : Fin Config.numBanks}

/-! ### Writes one after another -/

section writes
variable (b : Mailbox) (f : Mailbox → Mailbox) (c : Bank) (g : Bank → Bank)

theorem State.updMailbox_updMailbox :
    (s.updMailbox m fun _ => b).updMailbox m f = s.updMailbox m fun _ => f b := by
  simp [State.updMailbox, State.mailbox]

theorem State.updMailbox_self (s : State) (m : Fin Config.numMailboxes) : (s.updMailbox m fun _ => s.mailbox m) = s := by
  simp [State.updMailbox, State.mailbox]

/-- A further write of the mailbox at hand, after which SEQ goes on. -/
theorem State.continueAt_updMailbox : (((s.updMailbox m fun _ => b).continueAt r).updMailbox m f).continueAt r' =
    (s.updMailbox m fun _ => f b).continueAt r' := by
  rw [← State.updMailbox_updMailbox]
  rfl

/-- A further write of the mailbox at hand, after which SEQ responds. -/
theorem State.respond_updMailbox : (((s.updMailbox m fun _ => b).continueAt r).updMailbox m f).respond st =
    (s.updMailbox m fun _ => f b).respond st := by
  rw [← State.updMailbox_updMailbox]
  rfl

theorem State.updBank_updBank : (s.updBank k fun _ => c).updBank k g = s.updBank k fun _ => g c := by
  simp [State.updBank, State.bank]

theorem State.updBank_self (s : State) (k : Fin Config.numBanks) : (s.updBank k fun _ => s.bank k) = s := by
  simp [State.updBank, State.bank]

/-- A further write of the bank at hand, after which SEQ goes on. -/
theorem State.continueAt_updBank : (((s.updBank k fun _ => c).continueAt r).updBank k g).continueAt r' =
    (s.updBank k fun _ => g c).continueAt r' := by
  rw [← State.updBank_updBank]
  rfl

/-- A further write of the bank at hand, after which SEQ responds. -/
theorem State.respond_updBank : (((s.updBank k fun _ => c).continueAt r).updBank k g).respond st =
    (s.updBank k fun _ => g c).respond st := by
  rw [← State.updBank_updBank]
  rfl

end writes

/-- The first micro-step of a command just issued. -/
theorem runSteps_one_issue {w : Word} (hs : s.seqOnly) (hd : decode w = .ok i) (h : exec i (s.issue w) = .next t) :
    runSteps 1 (s.issue w) = .next t := runSteps_snoc rfl ((step_of_run (s := s.issue w) hs rfl hd).trans h)

/-- The response of a command that was issued in `s`. -/
theorem responded_of_issue (hst : st ≠ .error) (hidle : t.seq = .idle)
    (hrsp : t.rsp = rspRespond (rspIssue s.rsp) st) : Responded s t st := by
  refine ⟨hidle, ?_⟩
  simp [hrsp, hst]

/-! ### The first Free mailbox -/

theorem firstFree_eq (t0 t1 t2 : Bool) : firstFree t0 t1 t2 =
    if t0 = false then some 0 else if t1 = false then some 1 else if t2 = false then some 2 else none := by
  cases t0 <;> cases t1 <;> cases t2 <;> rfl

theorem firstFree_some {b : Fin Config.numMailboxes → Bool} (h : firstFree (b 0) (b 1) (b 2) = some m) :
    b m = false ∧ ∀ j < m, b j = true := by
  have hcases : ∀ (t0 t1 t2 : Bool) (m : Fin 3), firstFree t0 t1 t2 = some m →
      ![t0, t1, t2] m = false ∧ ∀ j < m, ![t0, t1, t2] j = true := by decide
  have hb : ![b 0, b 1, b 2] = b := List.ofFn_inj.1 rfl
  exact hb ▸ hcases (b 0) (b 1) (b 2) m h

theorem firstFree_none {b : Fin Config.numMailboxes → Bool} (h : firstFree (b 0) (b 1) (b 2) = none) :
    ∀ m, b m = true := by
  have hcases : ∀ t0 t1 t2 : Bool, firstFree t0 t1 t2 = none → ∀ m : Fin 3, ![t0, t1, t2] m = true := by decide
  have hb : ![b 0, b 1, b 2] = b := List.ofFn_inj.1 rfl
  exact hb ▸ hcases (b 0) (b 1) (b 2) h

/-! ### TX -/

/-- A mailbox that TX has programmed with the words `w` (R121): the request flag is set, and TDTR keeps its other fields. -/
def Mailbox.programmed (b : Mailbox) (w : FrameWords) : Mailbox :=
  { b.withDlc (w.dlw.extractLsb' 0 4) with tir := w.idw, tdlr := w.dl, tdhr := w.dh }.withTxrq true

theorem Mailbox.tir_withTxrq_true (b : Mailbox) : (b.withTxrq true).tir = b.tir ||| 1 := by
  apply BitVec.eq_of_getLsbD_eq
  intro i hi
  cases i with
  | zero => simpa [Mailbox.txrq] using b.txrq_withTxrq true
  | succ i =>
    have hbit : (b.withTxrq true).tir.getLsbD (i + 1) = b.tir.getLsbD (i + 1) := by
      rw [Mailbox.getLsbD_tir_succ _ (by omega), Mailbox.getLsbD_tir_succ _ (by omega), Mailbox.idwField_withTxrq]
    simp [hbit]

theorem extractLsb'_ofNat (n : Nat) : (BitVec.ofNat 32 n).extractLsb' 0 4 = BitVec.ofNat 4 n := by
  apply BitVec.eq_of_toNat_eq
  simp

/-- Where a TX issued with the arguments `a` is when it is at micro-step `n` of programming mailbox `k` (R121). -/
def txProgramRun (ext rtr : Bool) (dlc : Nat) (a : Args) (k n : Nat) : Run :=
  { txScanRun ext rtr dlc a k with upc := n }

/-- TX issued in `s`, at micro-step `n` of programming mailbox `m`, which holds `b`. -/
def State.txProgramming (s : State) (ext rtr : Bool) (dlc : Nat) (m : Fin Config.numMailboxes) (b : Mailbox) (n : Nat) :
    State :=
  ((s.issue (encode (.tx ext rtr dlc))).updMailbox m fun _ => b).continueAt
    (txProgramRun ext rtr dlc s.arg m.val n)

section tx
variable (hs : s.seqOnly) (hdlc : dlc ≤ 15)
include hs hdlc

theorem step_txProgramming {b : Mailbox} :
    step (s.txProgramming ext rtr dlc m b n) = exec (.tx ext rtr dlc) (s.txProgramming ext rtr dlc m b n) :=
  step_of_run (s := s.txProgramming ext rtr dlc m b n) hs rfl
    (decode_encode_of_wellFormed (i := .tx ext rtr dlc) (decide_eq_true hdlc))

/-- A data write of the mailbox that TX is programming. -/
theorem step_txProgramming_write {b : Mailbox} {f : Mailbox → Mailbox} {n' : Nat}
    (h : exec (.tx ext rtr dlc) (s.txProgramming ext rtr dlc m b n) = .next t)
    (ht : t = ((s.txProgramming ext rtr dlc m b n).updMailbox m f).continueAt (txProgramRun ext rtr dlc s.arg m.val n')) :
    step (s.txProgramming ext rtr dlc m b n) = .next (s.txProgramming ext rtr dlc m (f b) n') := by
  rw [step_txProgramming hs hdlc, h, ht]
  exact congrArg Host.Outcome.next (State.continueAt_updMailbox b f)

/-- The four data writes and the request flag. -/
theorem runSteps_txProgramming (m : Fin Config.numMailboxes) (b : Mailbox) :
    runSteps 5 (s.txProgramming ext rtr dlc m b 2) = .next (((s.issue (encode (.tx ext rtr dlc))).updMailbox m fun _ =>
      b.programmed (encodeFrame (frameOperand ext rtr dlc s.arg))).respond .ok) := by
  have hat {b : Mailbox} (n : Nat) :
      (s.txProgramming ext rtr dlc m b n).atStep (txProgramRun ext rtr dlc s.arg m.val n) n := ⟨rfl, rfl, rfl⟩
  rw [runSteps_succ (step_txProgramming_write hs hdlc (n' := 3) (exec_tx_writeTir rfl (hat 2)) rfl),
    runSteps_succ (step_txProgramming_write hs hdlc (n' := 4) (exec_tx_writeDlc rfl (hat 3)) rfl),
    runSteps_succ (step_txProgramming_write hs hdlc (n' := 5) (exec_tx_writeTdlr rfl (hat 4)) rfl),
    runSteps_succ (step_txProgramming_write hs hdlc (n' := 6) (exec_tx_writeTdhr rfl (hat 5)) rfl)]
  refine runSteps_snoc rfl ?_
  rw [step_txProgramming hs hdlc, exec_tx_writeTxrq rfl (hat 6)]
  exact congrArg Host.Outcome.next (State.respond_updMailbox _ fun b => b.withTxrq true)

variable (hwf : wellFormedFrame (frameOperand ext rtr dlc s.arg) = true)
include hwf

/-- A TX of a well-formed frame whose scan finds mailbox `m` Free programs it (R121). -/
theorem runSteps_tx_of_free (hfree : s.txrq m = false) (hbelow : ∀ j < m, s.txrq j = true) :
    runSteps (7 + m.val) (s.issue (encode (.tx ext rtr dlc))) =
      .next (((s.issue (encode (.tx ext rtr dlc))).updMailbox m fun _ =>
        (s.mailbox m).programmed (encodeFrame (frameOperand ext rtr dlc s.arg))).respond .ok) := by
  have hd := decode_encode_of_wellFormed (i := .tx ext rtr dlc) (decide_eq_true hdlc)
  have hcheck : runSteps 1 (s.issue (encode (.tx ext rtr dlc))) = .next (s.txScanning ext rtr dlc 0) :=
    runSteps_one_issue hs hd (exec_tx_of_wellFormed (atStep_issue s _) hwf)
  have hscan : runSteps m.val (s.txScanning ext rtr dlc 0) = .next (s.txScanning ext rtr dlc m.val) :=
    runSteps_sequence (f := s.txScanning ext rtr dlc) fun k hk =>
      (step_txScanning_of_busy (m := ⟨k, hk.trans m.isLt⟩) hs hdlc (hbelow _ hk)).trans
        (scanOn_of_lt _ (hk.trans_le (Nat.le_of_lt_succ m.isLt)))
  have hfound : step (s.txScanning ext rtr dlc m.val) = .next (s.txProgramming ext rtr dlc m (s.mailbox m) 2) := by
    rw [step_of_run (s := s.txScanning ext rtr dlc m.val) hs rfl hd,
      exec_tx_scan_of_free (s := s.txScanning ext rtr dlc m.val) (r := txScanRun ext rtr dlc s.arg m.val) rfl
        ⟨rfl, rfl, rfl⟩ hfree]
    unfold State.txProgramming
    rw [← State.issue_mailbox s (encode (.tx ext rtr dlc)) m, State.updMailbox_self]
    rfl
  have hlength : 7 + m.val = 1 + (m.val + 1 + 5) := by omega
  rw [hlength]
  exact runSteps_append hcheck (runSteps_append (runSteps_snoc hscan hfound) (runSteps_txProgramming hs hdlc m _))

/-- A TX of a well-formed frame that finds every mailbox Busy, whatever SEQ did before the issue. -/
theorem runSteps_tx_of_allBusy (hbusy : ∀ m, s.txrq m = true) :
    runSteps 4 (s.issue (encode (.tx ext rtr dlc))) =
      .next ((s.issue (encode (.tx ext rtr dlc))).respond .retryLater) := by
  have hd := decode_encode_of_wellFormed (i := .tx ext rtr dlc) (decide_eq_true hdlc)
  have hrun := runSteps_tx_of_busy (s := { s with seq := .idle }) rfl hs hdlc hwf hbusy
  rwa [hostWriteCmd_of_legal rfl hd] at hrun

end tx

@[simp] theorem Mailbox.txrq_programmed (b : Mailbox) (w : FrameWords) : (b.programmed w).txrq = true :=
  Mailbox.txrq_withTxrq _ true

theorem Mailbox.frameWords_programmed {f : LogicalFrame} (b : Mailbox) (hwf : wellFormedFrame f = true) :
    (b.programmed (encodeFrame f)).frameWords = encodeFrame f :=
  (Mailbox.frameWords_withTxrq _ true).trans
    (Mailbox.frameWords_eq_encodeFrame hwf rfl (Mailbox.dlc_withDlc b _) rfl rfl)

theorem Mailbox.programmed_eq (b : Mailbox) (w : FrameWords) :
    b.programmed w = ⟨w.idw ||| 1, (b.programmed w).tdtr, w.dl, w.dh⟩ :=
  congrArg (fun tir => (⟨tir, (b.programmed w).tdtr, w.dl, w.dh⟩ : Mailbox)) (Mailbox.tir_withTxrq_true _)

/-- Settles O17: the whole run into the first Free mailbox, and the whole run of a scan that found none. -/
theorem txFillsTheFirstFreeMailbox : Obligations.TxFillsTheFirstFreeMailbox := by
  refine ⟨firstFree_eq, fun s ext rtr dlc hs hdlc hwf => ⟨fun m hm => ?_, fun hnone => ?_⟩⟩
  · obtain ⟨hfree, hbelow⟩ := firstFree_some hm
    refine ⟨_, runSteps_tx_of_free hs hdlc hwf hfree hbelow, responded_of_issue (by decide) rfl rfl, ?_, ?_, ?_,
      onlyMailbox_of_txmb_eq_upd rfl, rfl⟩
    all_goals rw [State.respond_mailbox, State.mailbox_updMailbox_self]
    · exact Mailbox.programmed_eq _ _
    · exact (Mailbox.dlc_withDlc _ _).trans (extractLsb'_ofNat dlc)
    · exact Mailbox.tdtrX_withDlc _ _
  · exact ⟨_, runSteps_tx_of_allBusy hs hdlc hwf (firstFree_none hnone), responded_of_issue (by decide) rfl rfl, rfl⟩

end Sys2Proof.Machine

/-!
Whole commands of the Filter Bank Manager with no other agent's turn: FADD into the lowest inactive bank (R141), FREM of
the lowest hit (R144), and FCLR seen bank by bank (R145, R227).
-/

namespace Sys2Proof.Machine

variable {s t : State} {r r' : Run} {hasMask : Bool} {n : Nat} {k : Fin Config.numBanks}

/-! ### FADD -/

theorem decode_encode_fadd (hasMask : Bool) : decode (encode (.fadd hasMask)) = .ok (.fadd hasMask) := by
  cases hasMask <;> decide

/-- Where a FADD issued with the arguments `a` is when it is at micro-step `n`, with bank `k` at hand (R141). -/
def faddRun (hasMask : Bool) (a : Args) (k n : Nat) : Run where
  cmd := encode (.fadd hasMask)
  arg := a
  upc := n
  k := k

/-- The bank FADD programs with its arguments `a` (R141). -/
def faddBank (p : Params) (hasMask : Bool) (a : Args) : Bank :=
  ⟨true, p.modeselA, p.modeselB, a.arg0, if hasMask then a.arg1 else 0xFFFFFFFF⟩

/-- FADD issued in `s`, its scan at bank `k`. -/
def State.faddScanning (s : State) (hasMask : Bool) (k : Nat) : State :=
  (s.issue (encode (.fadd hasMask))).continueAt (faddRun hasMask s.arg k 1)

/-- FADD issued in `s`, at micro-step `n` of programming bank `k`, which holds `b`. -/
def State.faddProgramming (s : State) (hasMask : Bool) (k : Fin Config.numBanks) (b : Bank) (n : Nat) : State :=
  ((s.issue (encode (.fadd hasMask))).updBank k fun _ => b).continueAt (faddRun hasMask s.arg k.val n)

section fadd
variable (hs : s.seqOnly)
include hs

theorem step_faddScanning_of_active (hact : (s.bank k).act = true) : step (s.faddScanning hasMask k.val) =
    scanOn (s.faddScanning hasMask k.val) (faddRun hasMask s.arg k.val 1) Config.numBanks 1
      ((s.faddScanning hasMask k.val).respond .ok) :=
  (step_of_run (s := s.faddScanning hasMask k.val) hs rfl (decode_encode_fadd hasMask)).trans
    (exec_fadd_scan_of_active (r := faddRun hasMask s.arg k.val 1) rfl ⟨rfl, rfl, rfl⟩ hact)

/-- The scan passes the active banks. -/
theorem runSteps_faddScanning {hi : Nat} (hhi : hi ≤ 27)
    (hact : ∀ j : Fin Config.numBanks, j.val < hi → (s.bank j).act = true) :
    runSteps hi (s.faddScanning hasMask 0) = .next (s.faddScanning hasMask hi) :=
  runSteps_sequence (f := s.faddScanning hasMask) fun j hj =>
    (step_faddScanning_of_active (k := ⟨j, (hj.trans_le hhi).trans (by decide)⟩) hs (hact _ hj)).trans
      (scanOn_of_lt _ (hj.trans_le hhi))

theorem step_faddProgramming {b : Bank} :
    step (s.faddProgramming hasMask k b n) = exec (.fadd hasMask) (s.faddProgramming hasMask k b n) :=
  step_of_run (s := s.faddProgramming hasMask k b n) hs rfl (decode_encode_fadd hasMask)

/-- A write of a field of the bank that FADD is programming. -/
theorem step_faddProgramming_write {b : Bank} {f : Bank → Bank} {n' : Nat}
    (h : exec (.fadd hasMask) (s.faddProgramming hasMask k b n) = .next t)
    (ht : t = ((s.faddProgramming hasMask k b n).updBank k f).continueAt (faddRun hasMask s.arg k.val n')) :
    step (s.faddProgramming hasMask k b n) = .next (s.faddProgramming hasMask k (f b) n') := by
  rw [step_faddProgramming hs, h, ht]
  exact congrArg Host.Outcome.next (State.continueAt_updBank b f)

/-- The four fields and activation. -/
theorem runSteps_faddProgramming (k : Fin Config.numBanks) (b : Bank) :
    runSteps 5 (s.faddProgramming hasMask k b 2) = .next (((s.issue (encode (.fadd hasMask))).updBank k fun _ =>
      faddBank s.params hasMask s.arg).respond .ok) := by
  have hat {b : Bank} (n : Nat) : (s.faddProgramming hasMask k b n).atStep (faddRun hasMask s.arg k.val n) n :=
    ⟨rfl, rfl, rfl⟩
  rw [runSteps_succ (step_faddProgramming_write hs (n' := 3) (exec_fadd_writeMsa rfl (hat 2)) rfl),
    runSteps_succ (step_faddProgramming_write hs (n' := 4) (exec_fadd_writeMsb rfl (hat 3)) rfl),
    runSteps_succ (step_faddProgramming_write hs (n' := 5) (exec_fadd_writeFid rfl (hat 4)) rfl),
    runSteps_succ (step_faddProgramming_write hs (n' := 6) (exec_fadd_writeFmask rfl (hat 5)) rfl)]
  refine runSteps_snoc rfl ?_
  rw [step_faddProgramming hs, exec_fadd_writeAct rfl (hat 6)]
  exact congrArg Host.Outcome.next (State.respond_updBank _ fun b => { b with act := true })

variable (hnew : ∀ j, ¬ ((s.bank j).act = true ∧ (s.bank j).fid = s.arg.arg0))
include hnew

/-- FADD's check finds no active bank with the identifier (R143). -/
theorem runSteps_faddCheck : runSteps 1 (s.issue (encode (.fadd hasMask))) = .next (s.faddScanning hasMask 0) := by
  have hnone : (s.issue (encode (.fadd hasMask))).lowestBank (Bank.holds s.arg.arg0) = none :=
    State.lowestBank_none.2 fun j => Bank.holds_eq_false_iff.2 (hnew j)
  exact runSteps_one_issue hs (decode_encode_fadd hasMask) (exec_fadd_of_noDuplicate (atStep_issue s _) hnone)

/-- A FADD whose scan finds bank `k` inactive programs it (R141). -/
theorem runSteps_fadd_of_inactive (hoff : (s.bank k).act = false) (hbelow : ∀ j, j < k → (s.bank j).act = true) :
    runSteps (7 + k.val) (s.issue (encode (.fadd hasMask))) = .next (((s.issue (encode (.fadd hasMask))).updBank k fun _ =>
      faddBank s.params hasMask s.arg).respond .ok) := by
  have hscan := runSteps_faddScanning (hasMask := hasMask) hs (Nat.le_of_lt_succ k.isLt) fun j hj => hbelow j hj
  have hfound : step (s.faddScanning hasMask k.val) = .next (s.faddProgramming hasMask k (s.bank k) 2) := by
    rw [step_of_run (s := s.faddScanning hasMask k.val) hs rfl (decode_encode_fadd hasMask),
      exec_fadd_scan_of_inactive (s := s.faddScanning hasMask k.val) (r := faddRun hasMask s.arg k.val 1) rfl
        ⟨rfl, rfl, rfl⟩ hoff]
    unfold State.faddProgramming
    rw [← State.issue_bank s (encode (.fadd hasMask)) k, State.updBank_self]
    rfl
  have hlength : 7 + k.val = 1 + (k.val + 1 + 5) := by omega
  rw [hlength]
  exact runSteps_append (runSteps_faddCheck hs hnew)
    (runSteps_append (runSteps_snoc hscan hfound) (runSteps_faddProgramming hs k _))

/-- A FADD that finds every bank active writes nothing (R142). -/
theorem runSteps_fadd_of_allActive (hact : ∀ j, (s.bank j).act = true) :
    runSteps 29 (s.issue (encode (.fadd hasMask))) = .next ((s.issue (encode (.fadd hasMask))).respond .ok) := by
  have hscan := runSteps_faddScanning (hasMask := hasMask) hs le_rfl fun j _ => hact j
  have hlast : step (s.faddScanning hasMask 27) = .next ((s.faddScanning hasMask 27).respond .ok) :=
    (step_faddScanning_of_active (k := 27) hs (hact 27)).trans (scanOn_of_not_lt _ (lt_irrefl 27))
  exact runSteps_append (runSteps_faddCheck hs hnew) (runSteps_snoc hscan hlast)

end fadd

/-- Settles O33: the whole run into the lowest inactive bank, and the whole run of a scan that found none. -/
theorem faddProgramsTheLowestFreeBank : Obligations.FaddProgramsTheLowestFreeBank := by
  refine fun s hasMask hs hnew => ⟨fun k hoff hbelow => ?_, fun hact => ?_⟩
  · exact ⟨_, runSteps_fadd_of_inactive hs hnew hoff hbelow, responded_of_issue (by decide) rfl rfl,
      bank_of_fb_eq_upd rfl, onlyBank_of_fb_eq_upd rfl, rfl⟩
  · exact ⟨_, runSteps_fadd_of_allActive hs hnew hact, responded_of_issue (by decide) rfl rfl, rfl⟩

/-! ### FREM -/

theorem decode_encode_frem : decode (encode .frem) = .ok .frem := by decide

/-- Where an FREM issued with the arguments `a` is when it is at micro-step `n`, with bank `k` at hand (R144). -/
def fremRun (a : Args) (k n : Nat) : Run where
  cmd := encode .frem
  arg := a
  upc := n
  k := k

/-- FREM issued in `s`, at micro-step `n` with bank `k` at hand. -/
def State.fremAt (s : State) (k n : Nat) : State := (s.issue (encode .frem)).continueAt (fremRun s.arg k n)

theorem State.atStep_fremAt (s : State) (k n : Nat) : (s.fremAt k n).atStep (fremRun s.arg k n) n := ⟨rfl, rfl, rfl⟩

section frem
variable (hs : s.seqOnly)
include hs

theorem step_fremAt (k n : Nat) : step (s.fremAt k n) = exec .frem (s.fremAt k n) :=
  step_of_run (s := s.fremAt k n) hs rfl decode_encode_frem

theorem step_fremAt_of_active (hact : (s.bank k).act = true) : step (s.fremAt k.val 1) = .next (s.fremAt k.val 2) :=
  (step_fremAt hs k.val 1).trans (exec_frem_scan_of_active rfl (s.atStep_fremAt k.val 1) hact)

/-- FREM passes over a bank that is no hit in one micro-step, or in two if it is active; `t` is where the scan goes on. -/
theorem runSteps_fremPass (hmiss : ¬ ((s.bank k).act = true ∧ (s.bank k).fid = s.arg.arg0))
    (ht : ∀ n, scanOn (s.fremAt k.val n) (fremRun s.arg k.val n) Config.numBanks 1
      ((s.issue (encode .frem)).respond .ok) = .next t) :
    ∃ n, n ≤ 2 ∧ runSteps n (s.fremAt k.val 1) = .next t := by
  have hpass {n : Nat} (h : ((s.fremAt k.val n).atStep (fremRun s.arg k.val n) 1 ∧ (s.bank k).act = false) ∨
      ((s.fremAt k.val n).atStep (fremRun s.arg k.val n) 2 ∧ (s.bank k).fid ≠ s.arg.arg0)) :
      step (s.fremAt k.val n) = .next t :=
    (step_fremAt hs k.val n).trans ((exec_frem_passOver rfl h).trans (ht n))
  cases hact : (s.bank k).act with
  | false => exact ⟨1, by decide, runSteps_snoc rfl (hpass (.inl ⟨s.atStep_fremAt k.val 1, hact⟩))⟩
  | true =>
    have hne : (s.bank k).fid ≠ s.arg.arg0 := fun hfid => hmiss ⟨hact, hfid⟩
    exact ⟨2, le_rfl, runSteps_snoc (runSteps_snoc rfl (step_fremAt_of_active hs hact))
      (hpass (.inr ⟨s.atStep_fremAt k.val 2, hne⟩))⟩

/-- FREM reaches bank `hi` when no bank below is a hit, in at most two micro-steps a bank. -/
theorem runSteps_fremScan {hi : Nat} (hhi : hi ≤ 27)
    (hmiss : ∀ j : Fin Config.numBanks, j.val < hi → ¬ ((s.bank j).act = true ∧ (s.bank j).fid = s.arg.arg0)) :
    ∃ n, n ≤ 1 + 2 * hi ∧ runSteps n (s.issue (encode .frem)) = .next (s.fremAt hi 1) := by
  induction hi with
  | zero => exact ⟨1, le_rfl, runSteps_one_issue hs decode_encode_frem (exec_frem_start (atStep_issue s _))⟩
  | succ hi ih =>
    obtain ⟨n, hn, hrun⟩ := ih (by omega) fun j hj => hmiss j (by omega)
    have hbank : hi < Config.numBanks := hhi.trans (by decide)
    obtain ⟨p, hp, hpass⟩ := runSteps_fremPass (t := s.fremAt (hi + 1) 1) (k := ⟨hi, hbank⟩) hs
      (hmiss ⟨hi, hbank⟩ (Nat.lt_succ_self hi)) fun n => scanOn_of_lt _ hhi
    exact ⟨n + p, by omega, runSteps_append hrun hpass⟩

/-- A whole FREM clears the activation flag of the lowest hit (R144). -/
theorem runSteps_frem_of_hit (hact : (s.bank k).act = true) (hfid : (s.bank k).fid = s.arg.arg0)
    (hmiss : ∀ j, j < k → ¬ ((s.bank j).act = true ∧ (s.bank j).fid = s.arg.arg0)) :
    ∃ n, n ≤ 58 ∧ runSteps n (s.issue (encode .frem)) =
      .next (((s.issue (encode .frem)).writeAct k false).respond .ok) := by
  obtain ⟨n, hn, hrun⟩ := runSteps_fremScan hs (Nat.le_of_lt_succ k.isLt) fun j hj => hmiss j hj
  have hcompare : step (s.fremAt k.val 2) = .next (s.fremAt k.val 3) :=
    (step_fremAt hs k.val 2).trans (exec_frem_compare_of_eq rfl (s.atStep_fremAt k.val 2) hfid)
  have hwrite : step (s.fremAt k.val 3) = .next (((s.issue (encode .frem)).writeAct k false).respond .ok) :=
    (step_fremAt hs k.val 3).trans (exec_frem_writeAct rfl (s.atStep_fremAt k.val 3))
  have hk : k.val ≤ 27 := Nat.le_of_lt_succ k.isLt
  refine ⟨n + 1 + 1 + 1, by omega, ?_⟩
  exact runSteps_snoc (runSteps_snoc (runSteps_snoc hrun (step_fremAt_of_active hs hact)) hcompare) hwrite

/-- A whole FREM without a hit changes no bank (R144). -/
theorem runSteps_frem_of_noHit (hmiss : ∀ j, ¬ ((s.bank j).act = true ∧ (s.bank j).fid = s.arg.arg0)) :
    ∃ n, n ≤ 58 ∧ runSteps n (s.issue (encode .frem)) = .next ((s.issue (encode .frem)).respond .ok) := by
  obtain ⟨n, hn, hrun⟩ := runSteps_fremScan hs le_rfl fun j _ => hmiss j
  obtain ⟨p, hp, hpass⟩ := runSteps_fremPass (k := 27) hs (hmiss 27) fun n => scanOn_of_not_lt _ (lt_irrefl 27)
  exact ⟨n + p, by omega, runSteps_append hrun hpass⟩

end frem

/-- Settles O38: the whole run to the lowest hit, and the whole run that finds none. -/
theorem fremClearsTheLowestMatch : Obligations.FremClearsTheLowestMatch := by
  refine fun s hs => ⟨fun k ⟨hact, hfid⟩ hmiss => ?_, fun hmiss => ?_⟩
  · obtain ⟨n, hn, hrun⟩ := runSteps_frem_of_hit hs hact hfid hmiss
    exact ⟨n, _, hn, hrun, responded_of_issue (by decide) rfl rfl, bank_of_fb_eq_upd rfl, onlyBank_of_fb_eq_upd rfl, rfl⟩
  · obtain ⟨n, hn, hrun⟩ := runSteps_frem_of_noHit hs hmiss
    exact ⟨n, _, hn, hrun, responded_of_issue (by decide) rfl rfl, rfl⟩

/-! ### FCLR -/

/-- Settles O41: after `k` micro-steps of FCLR a bank is active exactly if it was and is not below `k`. -/
theorem fclrIsSeenBankByBank : Obligations.FclrIsSeenBankByBank := by
  intro s k w hs
  have hrun : runSteps k.val (s.fclrAfter 0) = .next (s.fclrAfter k.val) :=
    runSteps_sequence fun j hj => step_fclrAfter_of_lt hs (hj.trans_le (Nat.le_of_lt_succ k.isLt))
  rw [s.fclrAfter_zero] at hrun
  refine ⟨s.fclrAfter k.val, hrun, rspPend_rspIssue _, State.accepts_iff.trans (exists_congr fun j => ?_)⟩
  rw [bankAdmits_iff, State.bank_fclrAfter]
  by_cases hjk : j.val < k.val
  · have hlt : ¬ k ≤ j := not_le.2 hjk
    simp [hjk, hlt]
  · have hle : k ≤ j := not_lt.1 hjk
    rw [if_neg hjk]
    exact ⟨fun h => ⟨hle, h⟩, fun h => h.2⟩

end Sys2Proof.Machine

/-!
Host scripts that transmit (R224): three TX fill the mailboxes and a fourth is RETRY_LATER (R127), a TX and its completion
reach the bus (R124), and the causes of RETRY_LATER, which can come for ever (R201, R211).
-/

namespace Sys2Proof.Machine

variable {s t u : State} {r r' : Run} {i : Instr} {ext rtr : Bool} {dlc n : Nat} {a : Args} {rest : List Event}
  {f : LogicalFrame} {m : Fin Config.numMailboxes} {w : Word}

/-! ### A script of TX -/

theorem dlc_le_of_wellFormed (hwf : wellFormedFrame (frameOperand ext rtr dlc a) = true) : dlc ≤ 15 :=
  (wellFormedFrame_frameOperand_iff.1 hwf).2.trans (by decide)


/-- From `s` to `t` a host's script transmitted: mailbox `m` holds the frame `f`, and `rest` is left of the plan. -/
structure TxSent (s t : State) (m : Fin Config.numMailboxes) (f : LogicalFrame) (rest : List Event) : Prop where
  responded : Responded s t .ok
  sched : t.sched = rest
  mailbox : t.mailbox m = (s.mailbox m).programmed (encodeFrame f)
  others : OnlyMailbox s t m
  buslog : t.buslog = s.buslog

theorem TxSent.idle (h : TxSent s t m f rest) : t.seq = .idle := h.responded.1

theorem TxSent.rspReserved (h : TxSent s t m f rest) : Machine.rspReserved t.rsp = Machine.rspReserved s.rsp := by
  obtain ⟨-, -, -, -, hreserved⟩ := h.responded
  exact hreserved

theorem TxSent.txrq (h : TxSent s t m f rest) : t.txrq m = true :=
  (congrArg Mailbox.txrq h.mailbox).trans (Mailbox.txrq_programmed _ _)

theorem TxSent.txrq_other {j : Fin Config.numMailboxes} (h : TxSent s t m f rest) (hj : j ≠ m) : t.txrq j = s.txrq j :=
  State.txrq_congr (h.others j hj)

theorem TxSent.frameWords (h : TxSent s t m f rest) (hwf : wellFormedFrame f = true) :
    (t.mailbox m).frameWords = encodeFrame f :=
  (congrArg Mailbox.frameWords h.mailbox).trans (Mailbox.frameWords_programmed _ hwf)

section script
variable (hidle : s.seq = .idle) (hwf : wellFormedFrame (frameOperand ext rtr dlc a) = true)
  (hsched : s.sched = hostScript (.tx ext rtr dlc) a ++ rest)
include hidle hwf hsched

/-- The script of a TX that finds mailbox `m` Free. -/
theorem runSteps_txScript (hfree : s.txrq m = false) (hbelow : ∀ j < m, s.txrq j = true) :
    ∃ t, runSteps (hostScript (.tx ext rtr dlc) a).length s = .next t ∧
      TxSent s t m (frameOperand ext rtr dlc a) rest := by
  have hdlc := dlc_le_of_wellFormed hwf
  have hd := decode_encode_of_wellFormed (i := .tx ext rtr dlc) (decide_eq_true hdlc)
  have hrun := runSteps_tx_of_free (s := s.ready a) (s.ready_seqOnly a) hdlc hwf hfree hbelow
  have hm : 7 + m.val ≤ maxMicroSteps (Instr.tx ext rtr dlc).op := Nat.add_le_add_left (Nat.le_of_lt_succ m.isLt) 7
  refine ⟨_, runSteps_hostScript hidle hd hsched hm hrun rfl, ?_⟩
  exact {
    responded := responded_of_issue (by decide) rfl rfl
    sched := rfl
    mailbox := mailbox_of_txmb_eq_upd (s := s) rfl
    others := onlyMailbox_of_txmb_eq_upd (s := s) rfl
    buslog := rfl }

/-- The script of a TX that finds every mailbox Busy. -/
theorem runSteps_txScript_of_allBusy (hbusy : ∀ m, s.txrq m = true) :
    ∃ t, runSteps (hostScript (.tx ext rtr dlc) a).length s = .next t ∧ Responded s t .retryLater ∧ t.txmb = s.txmb := by
  have hdlc := dlc_le_of_wellFormed hwf
  have hd := decode_encode_of_wellFormed (i := .tx ext rtr dlc) (decide_eq_true hdlc)
  have hrun := runSteps_tx_of_allBusy (s := s.ready a) (s.ready_seqOnly a) hdlc hwf hbusy
  exact ⟨_, runSteps_hostScript hidle hd hsched (show 4 ≤ 9 by decide) hrun rfl,
    responded_of_issue (by decide) rfl rfl, rfl⟩

end script

/-- Settles O23: four scripts, each of which finds the mailboxes as the one before left them. -/
theorem mailboxExhaustion : Obligations.MailboxExhaustion := by
  intro s ext rtr dlc a f script hidle hfree hwf hsched
  have hlt1 : ∀ j : Fin Config.numMailboxes, j < 1 → j = 0 := by decide
  have hlt2 : ∀ j : Fin Config.numMailboxes, j < 2 → j = 0 ∨ j = 1 := by decide
  have hall : ∀ j : Fin Config.numMailboxes, j = 0 ∨ j = 1 ∨ j = 2 := by decide
  obtain ⟨s1, hrun1, h1⟩ := runSteps_txScript (m := 0) (rest := script 1 ++ (script 2 ++ script 3)) hidle (hwf 0)
    (by simpa using hsched) (hfree 0) fun j hj => absurd hj (Fin.not_lt_zero j)
  have hfree1 : s1.txrq 1 = false := (h1.txrq_other (by decide)).trans (hfree 1)
  obtain ⟨s2, hrun2, h2⟩ := runSteps_txScript (m := 1) h1.idle (hwf 1) h1.sched hfree1 fun j hj =>
    hlt1 j hj ▸ h1.txrq
  have hbusy2 : s2.txrq 0 = true := (h2.txrq_other (by decide)).trans h1.txrq
  have hfree2 : s2.txrq 2 = false := ((h2.txrq_other (by decide)).trans (h1.txrq_other (by decide))).trans (hfree 2)
  obtain ⟨s3, hrun3, h3⟩ := runSteps_txScript (m := 2) h2.idle (hwf 2) h2.sched hfree2 fun j hj =>
    (hlt2 j hj).elim (fun h0 => h0 ▸ hbusy2) fun h1 => h1 ▸ h2.txrq
  have hbusy3 (m : Fin Config.numMailboxes) : s3.txrq m = true := by
    obtain rfl | rfl | rfl := hall m
    · exact (h3.txrq_other (by decide)).trans hbusy2
    · exact (h3.txrq_other (by decide)).trans h2.txrq
    · exact h3.txrq
  have hmailbox0 : s3.mailbox 0 = s1.mailbox 0 := (h3.others 0 (by decide)).trans (h2.others 0 (by decide))
  have hmailbox1 : s3.mailbox 1 = s2.mailbox 1 := h3.others 1 (by decide)
  have hreserved : rspReserved s2.rsp = rspReserved s.rsp := h2.rspReserved.trans h1.rspReserved
  obtain ⟨u, hrun4, hretry, htxmb⟩ := runSteps_txScript_of_allBusy (rest := []) h3.idle (hwf 3)
    (h3.sched.trans (List.append_nil _).symm) hbusy3
  refine ⟨s3, ?_, h3.responded.of_rspReserved_eq hreserved, hmailbox0 ▸ h1.frameWords (hwf 0),
    hmailbox1 ▸ h2.frameWords (hwf 1), h3.frameWords (hwf 2), hbusy3, u, hrun4, hretry, htxmb⟩
  rw [List.length_append, List.length_append]
  exact runSteps_append (runSteps_append hrun1 hrun2) hrun3

/-- A completed mailbox is Free, whatever it was. -/
theorem txDone_txrq_self (s : State) (m : Fin Config.numMailboxes) : (s.txDone m).txrq m = false := by
  cases hbusy : s.txrq m with
  | false => rw [txDone_of_free hbusy, hbusy]
  | true =>
    rw [State.txDone, if_pos hbusy]
    exact (congrArg Mailbox.txrq (mailbox_of_txmb_eq_upd rfl)).trans (Mailbox.txrq_withTxrq (s.mailbox m) false)

/-- Settles O24: the script leaves the frame in the mailbox, and the completion logs it and clears the flag. -/
theorem transmittedFrameReachesTheBus : Obligations.TransmittedFrameReachesTheBus := by
  intro s ext rtr dlc a m f script hidle hwf hsched hm
  obtain ⟨hfree, hbelow⟩ := firstFree_some hm
  obtain ⟨t, hrun, hsent⟩ := runSteps_txScript hidle hwf hsched hfree hbelow
  have hdone : step t = .next ((t.withPlan [] t.later).txDone m) := step_cons hsent.sched
  refine ⟨_, runSteps_snoc hrun hdone, ?_, decodeFrame_encodeFrame hwf, fun j => ?_⟩
  · rw [txDone_buslog_of_busy (s := t.withPlan [] t.later) hsent.txrq, ← hsent.buslog, ← hsent.frameWords hwf]
    rfl
  · by_cases hj : j = m
    · rw [hj, txDone_txrq_self, hfree]
    · exact (State.txrq_congr (onlyMailbox_txDone _ m j hj)).trans (hsent.txrq_other hj)

/-! ### The causes of RETRY_LATER -/

theorem rspRespond_ok_ne_retryLater {v : Word} : rspSt (rspRespond v .ok) ≠ Status.retryLater.code := by
  rw [rspSt_rspRespond]
  decide

section causes
variable (hr : s.seq = .run r)
include hr

/-- The commands besides TX and RX respond OK alone. -/
theorem exec_rsp_of_idle (htx : i.op ≠ .tx) (hrx : i.op ≠ .rx) (h : exec i s = .next t) (hidle : t.seq = .idle) :
    t.rsp = rspRespond s.rsp .ok := by
  have stopped {u : State} (hu : u = s) (hidle : u.seq = .idle) : u.rsp = rspRespond s.rsp .ok := by
    rw [hu, hr] at hidle
    cases hidle
  cases i with
  | enc ext rtr dlc =>
    obtain ⟨q, -, ⟨-, hu⟩ | ⟨-, -, ⟨-, rfl⟩ | ⟨-, rfl⟩⟩⟩ := execEnc_next h
    · exact stopped hu hidle
    · rfl
    · cases hidle
  | dec =>
    obtain ⟨q, -, ⟨-, hu⟩ | ⟨-, -, ⟨f, -, rfl⟩ | ⟨-, rfl⟩⟩⟩ := execDec_next h
    · exact stopped hu hidle
    · rfl
    · cases hidle
  | tx ext rtr dlc => exact absurd rfl htx
  | rx => exact absurd rfl hrx
  | fadd hasMask =>
    obtain ⟨q, -, ⟨-, hu⟩ | ⟨-, ⟨j, -, -, rfl⟩ | ⟨-, -, rfl⟩ | ⟨k, -, hscan⟩⟩⟩ := execFadd_next h
    · exact stopped hu hidle
    · cases hidle
    · cases hidle
    · obtain ⟨-, -, -, rfl⟩ | ⟨-, -, -, rfl⟩ | ⟨-, -, rfl⟩ | ⟨-, rfl⟩ | ⟨-, rfl⟩ | ⟨-, rfl⟩ | ⟨-, rfl⟩ | ⟨-, rfl⟩ :=
        hscan
      any_goals cases hidle
      · rfl
      · rfl
  | frem =>
    obtain ⟨q, -, ⟨-, hu⟩ | ⟨-, ⟨-, rfl⟩ | ⟨k, -, hscan⟩⟩⟩ := execFrem_next h
    · exact stopped hu hidle
    · cases hidle
    · obtain ⟨-, -, rfl⟩ | ⟨-, -, rfl⟩ | ⟨-, -, rfl⟩ | ⟨-, -, rfl⟩ | ⟨-, rfl⟩ := hscan
      any_goals cases hidle
      · rfl
      · rfl
  | fclr =>
    obtain ⟨q, -, ⟨-, hu⟩ | ⟨-, -, k, -, ⟨-, rfl⟩ | ⟨-, rfl⟩⟩⟩ := execFclr_next h
    · exact stopped hu hidle
    · cases hidle
    · rfl
  | fcnt =>
    obtain ⟨q, -, ⟨-, hu⟩ | ⟨-, -, k, -, c, -, ⟨-, rfl⟩ | ⟨-, rfl⟩⟩⟩ := execFcnt_next h
    · exact stopped hu hidle
    · cases hidle
    · rfl

/-- TX responds RETRY_LATER at the third Busy read alone (R121). -/
theorem execTx_retryLater (h : execTx ext rtr dlc s = .next t) (hidle : t.seq = .idle)
    (hst : rspSt t.rsp = Status.retryLater.code) :
    t = s.respond .retryLater ∧ r.upc = 1 ∧ r.k = 2 ∧ s.txrq 2 = true := by
  obtain ⟨q, hq, hcase⟩ := execTx_next h
  obtain rfl : q = r := by simpa [hq] using hr
  obtain ⟨-, rfl⟩ | ⟨-, ⟨-, -, rfl⟩ | ⟨-, -, rfl⟩ | ⟨m, hm, hscan⟩⟩ := hcase
  · simp [hq] at hidle
  · cases hidle
  · cases hidle
  · obtain ⟨-, -, -, rfl⟩ | ⟨hu, hbusy, hlast, rfl⟩ | ⟨-, -, rfl⟩ | ⟨-, rfl⟩ | ⟨-, rfl⟩ | ⟨-, rfl⟩ | ⟨-, rfl⟩ | ⟨-, rfl⟩ :=
      hscan
    any_goals cases hidle
    · have hle : m.val ≤ 2 := Nat.le_of_lt_succ m.isLt
      have hm2 : m = 2 := Fin.ext (hle.antisymm (hm ▸ not_lt.1 hlast))
      exact ⟨rfl, hu, hm ▸ congrArg Fin.val hm2, hm2 ▸ hbusy⟩
    · exact absurd hst rspRespond_ok_ne_retryLater

/-- RX responds RETRY_LATER on an empty FIFO alone (R174). -/
theorem execRx_retryLater (h : execRx s = .next t) (hidle : t.seq = .idle)
    (hst : rspSt t.rsp = Status.retryLater.code) : t = s.respond .retryLater ∧ r.upc = 0 ∧ s.rxq = [] := by
  obtain ⟨p, hp, hcase⟩ := execRx_next h
  obtain rfl : p = r := by simpa [hp] using hr
  obtain ⟨-, rfl⟩ | ⟨-, ⟨hu, hq, rfl⟩ | ⟨-, -, rfl⟩ | ⟨e, q, -, -, -, rfl⟩ | ⟨e, q, f, -, -, -, rfl⟩ | ⟨-, rfl⟩⟩ := hcase
  · simp [hp] at hidle
  any_goals cases hidle
  · exact ⟨rfl, hu, hq⟩
  · exact absurd hst rspRespond_ok_ne_retryLater

/-- TX's scan goes on to the next mailbox only from one that it reads as Busy. -/
theorem execTx_scan_goesOn (hs : r.stopped = false) (hu : r.upc = 1) (h : execTx ext rtr dlc s = .next t)
    (hr' : t.seq = .run r') (hu' : r'.upc = 1) :
    ∃ m : Fin Config.numMailboxes, m.val = r.k ∧ s.txrq m = true ∧ r'.k = r.k + 1 := by
  obtain ⟨q, hq, hcase⟩ := execTx_next h
  obtain rfl : q = r := by simpa [hq] using hr
  obtain ⟨hstop, -⟩ | ⟨-, ⟨h0, -⟩ | ⟨h0, -⟩ | ⟨m, hm, hscan⟩⟩ := hcase
  · simp [hs] at hstop
  · omega
  · omega
  · obtain ⟨-, hbusy, -, rfl⟩ | ⟨-, -, -, rfl⟩ | ⟨-, -, rfl⟩ | ⟨hn, -⟩ | ⟨hn, -⟩ | ⟨hn, -⟩ | ⟨hn, -⟩ | ⟨hn, -⟩ := hscan
    · cases hr'
      exact ⟨m, hm, hbusy, rfl⟩
    · cases hr'
    · cases hr'
      cases hu'
    all_goals omega

end causes

/-! ### RETRY_LATER for ever -/

/-- The state after a command was issued as `w` and responded RETRY_LATER. -/
def State.retried (s : State) (w : Word) : State :=
  { s with cmd := w, rsp := rspRespond (rspIssue s.rsp) .retryLater }

theorem responded_retried (hidle : s.seq = .idle) (w : Word) : Responded s (s.retried w) .retryLater :=
  responded_of_issue (by decide) hidle rfl

/-- A host that issues `w` for ever: in one round of its turns the command runs as it runs alone. -/
theorem runSteps_round (hidle : s.seq = .idle) (hsched : s.sched = [])
    (hlater : s.later = .again (.hostWriteCmd w :: List.replicate n .seq)) (hd : decode w = .ok i)
    (hrun : runSteps n ((s.ready s.arg).issue w) = .next (((s.ready s.arg).issue w).respond .retryLater)) :
    runSteps (1 + n) s = .next (s.retried w) := by
  have hissue : step s = .next (((s.ready s.arg).issue w).withPlan (List.replicate n .seq ++ []) s.later) := by
    rw [step_again hsched hlater, List.append_nil]
    exact congrArg Host.Outcome.next (hostWriteCmd_of_legal hidle hd)
  have hend : (((s.ready s.arg).issue w).respond .retryLater).withPlan [] s.later = s.retried w := by
    rw [← hsched, State.respond, ← hidle]
    rfl
  rw [← hend]
  exact runSteps_append (runSteps_snoc rfl hissue) (runSteps_withPlan ⟨rfl, rfl⟩ hrun)

/-- If one round ends in RETRY_LATER from every state that differs from `s` in CMD and RSP alone, every round does. -/
theorem runSteps_retries {p : Nat} (hidle : s.seq = .idle)
    (hround : ∀ cmd rsp,
      runSteps p { s with cmd := cmd, rsp := rsp } = .next ({ s with cmd := cmd, rsp := rsp }.retried w)) (n : Nat) :
    ∃ t, runSteps (p * (n + 1)) s = .next t ∧ Responded s t .retryLater ∧ t = { s with cmd := w, rsp := t.rsp } := by
  induction n with
  | zero => exact ⟨s.retried w, (Nat.mul_one p).symm ▸ hround s.cmd s.rsp, responded_retried hidle w, rfl⟩
  | succ n ih =>
    obtain ⟨t, hrun, ⟨-, -, -, -, hreserved⟩, ht⟩ := ih
    have hretry := responded_retried (s := { s with cmd := w, rsp := t.rsp }) hidle w
    refine ⟨_, ?_, hretry.of_rspReserved_eq hreserved, rfl⟩
    rw [Nat.mul_succ]
    refine runSteps_append hrun ?_
    rw [ht]
    exact hround w t.rsp

/-- Settles O44: the two causes by the commands' inversion, and the endless runs round by round. -/
theorem retryLaterCauses : Obligations.RetryLaterCauses := by
  refine ⟨fun s t i r hr hs h => ⟨fun hidle hst => ?_, fun ext rtr dlc r' hi hr' hu' hu => ?_⟩,
    fun s hidle hsched hlater hq => ?_, fun s ext rtr dlc hidle hsched hlater hbusy hwf => ?_⟩
  · by_cases htx : i.op = .tx
    · cases i with
      | tx ext rtr dlc =>
        obtain ⟨rfl, hu, hk, hbusy⟩ := execTx_retryLater hr h hidle hst
        exact ⟨rfl, .inl ⟨⟨ext, rtr, dlc, rfl⟩, hu, hk, hbusy⟩⟩
      | _ => cases htx
    by_cases hrx : i.op = .rx
    · cases i with
      | rx =>
        obtain ⟨rfl, hu, hq⟩ := execRx_retryLater hr h hidle hst
        exact ⟨rfl, .inr ⟨rfl, hu, hq⟩⟩
      | _ => cases hrx
    rw [exec_rsp_of_idle hr htx hrx h hidle] at hst
    exact absurd hst rspRespond_ok_ne_retryLater
  · subst hi
    exact execTx_scan_goesOn hr hs hu h hr' hu'
  · have hd : decode (encode .rx) = .ok .rx := by decide
    refine runSteps_retries hidle fun cmd rsp => ?_
    have hrun := runSteps_rx_of_empty (s := { s with cmd := cmd, rsp := rsp }.ready s.arg) ⟨rfl, rfl⟩ hd hq
    exact runSteps_round (s := { s with cmd := cmd, rsp := rsp }) hidle hsched hlater hd hrun
  · have hdlc := dlc_le_of_wellFormed hwf
    have hd := decode_encode_of_wellFormed (i := .tx ext rtr dlc) (decide_eq_true hdlc)
    refine runSteps_retries hidle fun cmd rsp => ?_
    have hrun := runSteps_tx_of_allBusy (s := { s with cmd := cmd, rsp := rsp }.ready s.arg) ⟨rfl, rfl⟩ hdlc hwf hbusy
    exact runSteps_round (s := { s with cmd := cmd, rsp := rsp }) hidle hsched hlater hd hrun

end Sys2Proof.Machine

/-!
Host scripts over the filter banks (R224): FREM twice is FREM once (R148), an added filter receives what it matches
(R172, R174), and 28 distinct filters fill the banks (R149).
-/

namespace Sys2Proof.Machine

variable {s t : State} {hasMask : Bool} {a : Args} {rest : List Event} {k : Fin Config.numBanks} {fid idw : Word}
  {e : FrameWords} {q : List FrameWords} {f : LogicalFrame}

/-! ### FREM twice -/

/-- `s` after the script of an FREM that left the bank file `fb`. -/
def State.fremEnd (s : State) (a : Args) (fb : Vector Bank Config.numBanks) (rest : List Event) : State :=
  { s with
    seq := .idle
    fb := fb
    cmd := encode .frem
    arg := a
    rsp := rspRespond (rspIssue s.rsp) .ok
    sched := rest }

/-- No active bank holds the identifier. -/
def State.NoHit (s : State) (fid : Word) : Prop := ∀ j, ¬ ((s.bank j).act = true ∧ (s.bank j).fid = fid)

/-- Where active banks have distinct identifiers, clearing the one hit leaves none. -/
theorem noHit_of_cleared (hunique : s.uniqueFilters) (hact : (s.bank k).act = true)
    (hfb : t.fb = (s.writeAct k false).fb) : t.NoHit (s.bank k).fid := by
  rintro j ⟨hj, hjfid⟩
  have hself : t.bank k = { s.bank k with act := false } := bank_of_fb_eq_upd hfb
  have honly : OnlyBank s t k := onlyBank_of_fb_eq_upd hfb
  by_cases hjk : j = k
  · simp [hjk, hself] at hj
  · rw [honly j hjk] at hj hjfid
    exact hjk (hunique j k hj hact hjfid)

/-- The script of an FREM leaves no bank active with the identifier, and changes no bank where none was. -/
theorem runSteps_fremScript (hidle : s.seq = .idle) (hsched : s.sched = hostScript .frem a ++ rest) :
    ∃ fb, runSteps (hostScript .frem a).length s = .next (s.fremEnd a fb rest) ∧
      (s.uniqueFilters → (s.fremEnd a fb rest).NoHit a.arg0) ∧ (s.NoHit a.arg0 → fb = s.fb) := by
  have hscript {n : Nat} {t : State} (hn : n ≤ 58) (hrun : runSteps n ((s.ready a).issue (encode .frem)) = .next t)
      (hend : t.seq = .idle) := runSteps_hostScript hidle decode_encode_frem hsched hn hrun hend
  cases hlowest : s.lowestBank (Bank.holds a.arg0) with
  | none =>
    have hmiss : s.NoHit a.arg0 := fun j => Bank.holds_eq_false_iff.1 (State.lowestBank_none.1 hlowest j)
    obtain ⟨n, hn, hrun⟩ := runSteps_frem_of_noHit (s.ready_seqOnly a) hmiss
    exact ⟨s.fb, hscript hn hrun rfl, fun _ => hmiss, fun _ => rfl⟩
  | some k =>
    obtain ⟨hhit, hlower⟩ := State.lowestBank_some hlowest
    obtain ⟨hact, hfid⟩ := Bank.holds_iff.1 hhit
    obtain ⟨n, hn, hrun⟩ := runSteps_frem_of_hit (s.ready_seqOnly a) hact hfid fun j hj =>
      Bank.holds_eq_false_iff.1 (hlower j hj)
    exact ⟨(s.writeAct k false).fb, hscript hn hrun rfl, fun hunique => hfid ▸ noHit_of_cleared hunique hact rfl,
      fun hmiss => absurd ⟨hact, hfid⟩ (hmiss k)⟩

/-- A response OK depends on the reserved field of RSP alone (R80). -/
theorem rspRespond_ok_congr {v w : Word} (h : rspReserved v = rspReserved w) : rspRespond v .ok = rspRespond w .ok := by
  rw [rspRespond, rspRespond, h]
  rfl

/-- A second FREM that changes no bank ends in the same state, but for the plan. -/
theorem State.fremEnd_fremEnd (s : State) (a : Args) (fb : Vector Bank Config.numBanks) (rest rest' : List Event) :
    (s.fremEnd a fb rest).fremEnd a fb rest' = { s.fremEnd a fb rest with sched := rest' } := by
  have hrsp : rspRespond (rspIssue (rspRespond (rspIssue s.rsp) .ok)) .ok = rspRespond (rspIssue s.rsp) .ok :=
    rspRespond_ok_congr (by simp)
  exact congrArg (fun rsp => { s.fremEnd a fb rest with sched := rest', rsp := rsp }) hrsp

/-- Settles O39: the first FREM leaves no hit, so the second changes no bank. -/
theorem fremTwiceIsFremOnce : Obligations.FremTwiceIsFremOnce := by
  intro s a hunique hidle hsched
  obtain ⟨fb, hrun, hmiss, hkept⟩ := runSteps_fremScript hidle hsched
  obtain ⟨fb', hrun', -, hkept'⟩ := runSteps_fremScript (s := s.fremEnd a fb (hostScript .frem a)) (rest := []) rfl
    (List.append_nil _).symm
  obtain rfl : fb' = fb := hkept' (hmiss hunique)
  exact ⟨_, _, hrun, hrun', s.fremEnd_fremEnd a fb' _ [], rfl, responded_of_issue (by decide) rfl rfl, hkept⟩

/-! ### A script of FADD -/

/-- From `s` to `t` a host's script added a filter to bank `k`, and `rest` is left of the plan. -/
structure FilterAdded (s t : State) (k : Fin Config.numBanks) (hasMask : Bool) (a : Args) (rest : List Event) : Prop where
  responded : Responded s t .ok
  bank : t.bank k = faddBank s.params hasMask a
  others : OnlyBank s t k
  kept : t = { s with
    seq := .idle
    fb := t.fb
    cmd := encode (.fadd hasMask)
    arg := a
    rsp := t.rsp
    sched := rest }

section kept
variable (h : FilterAdded s t k hasMask a rest)
include h

theorem FilterAdded.idle : t.seq = .idle := by rw [h.kept]
theorem FilterAdded.sched : t.sched = rest := by rw [h.kept]
theorem FilterAdded.params : t.params = s.params := by rw [h.kept]
theorem FilterAdded.rxq : t.rxq = s.rxq := by rw [h.kept]
theorem FilterAdded.res : t.res = s.res := by rw [h.kept]
theorem FilterAdded.faults : t.faults = s.faults := by rw [h.kept]

end kept

section fadd
variable (hidle : s.seq = .idle) (hnew : s.NoHit a.arg0) (hsched : s.sched = hostScript (.fadd hasMask) a ++ rest)
include hidle hnew hsched

/-- The script of a FADD that finds bank `k` inactive. -/
theorem runSteps_faddScript (hoff : (s.bank k).act = false) (hbelow : ∀ j, j < k → (s.bank j).act = true) :
    ∃ t, runSteps (hostScript (.fadd hasMask) a).length s = .next t ∧ FilterAdded s t k hasMask a rest := by
  have hrun := runSteps_fadd_of_inactive (hasMask := hasMask) (s.ready_seqOnly a) hnew hoff hbelow
  have hk : 7 + k.val ≤ maxMicroSteps (Instr.fadd hasMask).op := Nat.add_le_add_left (Nat.le_of_lt_succ k.isLt) 7
  refine ⟨_, runSteps_hostScript hidle (decode_encode_fadd hasMask) hsched hk hrun rfl, ?_⟩
  exact {
    responded := responded_of_issue (by decide) rfl rfl
    bank := bank_of_fb_eq_upd (s := s) rfl
    others := onlyBank_of_fb_eq_upd (s := s) rfl
    kept := rfl }

/-- The script of a FADD that finds every bank active. -/
theorem runSteps_faddScript_of_allActive (hact : ∀ j, (s.bank j).act = true) :
    ∃ t, runSteps (hostScript (.fadd hasMask) a).length s = .next t ∧ Responded s t .ok ∧ t.sched = rest ∧
      t.fb = s.fb ∧ t.faults = s.faults := by
  have hrun := runSteps_fadd_of_allActive (hasMask := hasMask) (s.ready_seqOnly a) hnew hact
  exact ⟨_, runSteps_hostScript hidle (decode_encode_fadd hasMask) hsched (show 29 ≤ 34 by decide) hrun rfl,
    responded_of_issue (by decide) rfl rfl, rfl, rfl, rfl⟩

end fadd

/-! ### A script of RX -/

theorem decode_encode_rx : decode (encode .rx) = .ok .rx := by decide

/-- A whole RX of a head entry that decodes (R174). -/
theorem runSteps_rx_of_decodable (hs : s.seqOnly) (hq : s.rxq = e :: q) (hf : decodeFrame e = some f) :
    runSteps 3 (s.issue (encode .rx)) = .next (((s.issue (encode .rx)).writeRelease true).respondResults
      (decodedResults f)) := by
  have hlevel : runSteps 1 (s.issue (encode .rx)) = .next s.rxReadingHead :=
    runSteps_one_issue hs decode_encode_rx (exec_rx_of_nonempty (atStep_issue s _) (by simp [hq]))
  have hread : step s.rxReadingHead =
      .next (s.rxReadingHead.continueAt { rxHeadRun s.arg with upc := 2, snap := { e := e, r := f } }) :=
    (step_of_run (s := s.rxReadingHead) hs rfl decode_encode_rx).trans
      (exec_rx_decode_of_some (s := s.rxReadingHead) (r := rxHeadRun s.arg) ⟨rfl, rfl, rfl⟩ hq hf)
  refine runSteps_snoc (runSteps_snoc hlevel hread) ?_
  rw [step_of_run (s := s.rxReadingHead.continueAt _) hs rfl decode_encode_rx]
  exact exec_rx_release (r := { rxHeadRun s.arg with upc := 2, snap := { e := e, r := f } }) ⟨rfl, rfl, rfl⟩

section rx
variable (hidle : s.seq = .idle) (hsched : s.sched = hostScript .rx a ++ rest)
include hidle hsched

theorem runSteps_rxScript_of_decodable (hq : s.rxq = e :: q) (hf : decodeFrame e = some f) :
    ∃ t, runSteps (hostScript .rx a).length s = .next t ∧ Responded s t .ok ∧ t.rxq = q ∧ t.faults = s.faults ∧
      t.res = decodedResults f := by
  have hrun := runSteps_rx_of_decodable (s := s.ready a) (s.ready_seqOnly a) hq hf
  exact ⟨_, runSteps_hostScript hidle decode_encode_rx hsched le_rfl hrun rfl, responded_of_issue (by decide) rfl rfl,
    congrArg List.tail hq, rfl, rfl⟩

theorem runSteps_rxScript_of_empty (hq : s.rxq = []) :
    ∃ t, runSteps (hostScript .rx a).length s = .next t ∧ Responded s t .retryLater ∧ t.rxq = [] ∧
      t.faults = s.faults ∧ t.res = s.res := by
  have hrun := runSteps_rx_of_empty (s := s.ready a) (s.ready_seqOnly a) decode_encode_rx hq
  exact ⟨_, runSteps_hostScript hidle decode_encode_rx hsched (show 1 ≤ 3 by decide) hrun rfl,
    responded_of_issue (by decide) rfl rfl, hq, rfl, rfl⟩

end rx

/-! ### Add a filter, let a frame arrive, receive -/

/-- The one active bank, programmed without a mask, admits the identifier and no other, whatever `P_MATCH` is (R172). -/
theorem State.accepts_of_oneFilter (hbank : s.bank k = faddBank s.params false a)
    (hothers : ∀ j, j ≠ k → (s.bank j).act = false) : s.accepts idw = true ↔ idw = a.arg0 := by
  rw [State.accepts_iff]
  have hself : bankAdmits s.params idw (s.bank k) = true ↔ idw = a.arg0 := by
    rw [bankAdmits_iff, hbank]
    exact (and_iff_right rfl).trans matchBank_allOnes
  refine ⟨fun ⟨j, hj⟩ => ?_, fun h => ⟨k, hself.2 h⟩⟩
  obtain rfl : j = k := by
    by_contra hjk
    simp [bankAdmits, hothers j hjk] at hj
  exact hself.1 hj

/-- Settles O31: the script of FADD programs bank 0, which alone decides whether the arrival is there for RX. -/
theorem exactFilterReceives : Obligations.ExactFilterReceives := by
  intro s a b w f script hidle hoff hq hdepth hf hsched
  have hnew : s.NoHit a.arg0 := fun j hj => by simp [hoff j] at hj
  obtain ⟨t, hrun, hadded⟩ := runSteps_faddScript (k := 0) hidle hnew (hsched.trans (List.append_assoc _ _ _)) (hoff 0)
    fun j hj => absurd hj (Fin.not_lt_zero j)
  obtain ⟨-, -, -, -, hreserved⟩ := hadded.responded
  have hstep : step t = .next ((t.withPlan (hostScript .rx b) t.later).rxArrive w) := step_cons hadded.sched
  have hrun' := runSteps_snoc hrun hstep
  have haccepts : (t.withPlan (hostScript .rx b) t.later).accepts w.idw = true ↔ w.idw = a.arg0 := by
    refine State.accepts_of_oneFilter (k := 0) ?_ fun j hj => ?_
    · exact hadded.params ▸ hadded.bank
    · exact (congrArg Bank.act (hadded.others j hj)).trans (hoff j)
  have hlength : script.length = (hostScript (.fadd false) a).length + 1 + (hostScript .rx b).length := by
    rw [List.length_append, List.length_append]
    rfl
  rw [hlength]
  by_cases heq : w.idw = a.arg0
  · have hqueue : enqueue t.params t.rxq w = [w] := by
      rw [hadded.rxq, hq, hadded.params]
      exact enqueue_of_lt hdepth
    rw [State.rxArrive_of_accepted (haccepts.2 heq) hqueue] at hrun'
    obtain ⟨u, hrx, hresponded, hempty, hfaults, hres⟩ := runSteps_rxScript_of_decodable
      (s := { t.withPlan (hostScript .rx b) t.later with rxq := [w] }) (rest := []) hadded.idle
      (List.append_nil _).symm rfl hf
    exact ⟨u, runSteps_append hrun' hrx, hempty, hfaults.trans hadded.faults,
      fun _ => ⟨hresponded.of_rspReserved_eq hreserved, hres⟩, fun hne => absurd heq hne⟩
  · have hrejected := Bool.eq_false_iff.2 fun h => heq (haccepts.1 h)
    rw [State.rxArrive_of_rejected hrejected] at hrun'
    obtain ⟨u, hrx, hresponded, hempty, hfaults, hres⟩ := runSteps_rxScript_of_empty
      (s := t.withPlan (hostScript .rx b) t.later) (rest := []) hadded.idle (List.append_nil _).symm
      (hadded.rxq.trans hq)
    exact ⟨u, runSteps_append hrun' hrx, hempty, hfaults.trans hadded.faults, fun heq' => absurd heq' heq,
      fun _ => ⟨hresponded.of_rspReserved_eq hreserved, hres.trans hadded.res⟩⟩

/-! ### 28 filters -/

/-- The identifier an active bank holds. -/
def Bank.identifier (b : Bank) : Option Word := if b.act then some b.fid else none

/-- The banks hold the identifiers `ids` in this order from bank 0 up, and the banks above are inactive. -/
def State.HoldsFilters (s : State) (ids : List Word) : Prop := ∀ k, (s.bank k).identifier = ids[k.val]?

theorem Bank.identifier_eq_some_iff {b : Bank} : b.identifier = some fid ↔ b.act = true ∧ b.fid = fid := by
  simp [Bank.identifier]

theorem Bank.identifier_eq_none_iff {b : Bank} : b.identifier = none ↔ b.act = false := by
  simp [Bank.identifier]

theorem State.HoldsFilters.noHit {ids : List Word} (h : s.HoldsFilters ids) (hnew : fid ∉ ids) : s.NoHit fid :=
  fun j hj => hnew (List.mem_of_getElem? ((h j).symm.trans (Bank.identifier_eq_some_iff.2 hj)))

theorem State.HoldsFilters.active {ids : List Word} (h : s.HoldsFilters ids) (hk : k.val < ids.length) :
    (s.bank k).act = true :=
  (Bank.identifier_eq_some_iff.1 ((h k).trans (List.getElem?_eq_getElem hk))).1

theorem State.HoldsFilters.inactive {ids : List Word} (h : s.HoldsFilters ids) (hk : ids.length ≤ k.val) :
    (s.bank k).act = false :=
  Bank.identifier_eq_none_iff.1 ((h k).trans (List.getElem?_eq_none hk))

/-- Adding a filter to the lowest inactive bank puts its identifier at the end. -/
theorem FilterAdded.holdsFilters {ids : List Word} (hadded : FilterAdded s t k hasMask a rest) (h : s.HoldsFilters ids)
    (hk : k.val = ids.length) : t.HoldsFilters (ids ++ [a.arg0]) := by
  intro j
  by_cases hjk : j = k
  · rw [hjk, hadded.bank, hk, List.getElem?_concat_length]
    rfl
  · rw [hadded.others j hjk, h j]
    have hne : j.val ≠ ids.length := fun hj => hjk (Fin.ext (hj.trans hk.symm))
    obtain hlt | hgt := Nat.lt_or_gt_of_ne hne
    · rw [List.getElem?_append_left hlt]
    · rw [List.getElem?_eq_none hgt.le, List.getElem?_eq_none (by simpa using hgt)]

/-- The script that adds the filter `x`. -/
def addScript (x : Bool × Args) : List Event := hostScript (.fadd x.1) x.2

/-- From `s` to `t` a host's scripts added the filters in turn, and `rest` is left of the plan. -/
structure FiltersAdded (s t : State) (filters : List (Bool × Args)) (rest : List Event) : Prop where
  idle : t.seq = .idle
  sched : t.sched = rest
  holds : t.HoldsFilters (filters.map fun x => x.2.arg0)
  faults : t.faults = s.faults
  reserved : rspReserved t.rsp = rspReserved s.rsp
  responded : filters ≠ [] → Responded s t .ok

/-- Filters with distinct identifiers, no more than there are banks, are all added. -/
theorem runSteps_addScripts {filters : List (Bool × Args)} (hidle : s.seq = .idle) (hoff : ∀ k, (s.bank k).act = false)
    (hlength : filters.length ≤ Config.numBanks) (hnodup : (filters.map fun x => x.2.arg0).Nodup)
    (hsched : s.sched = filters.flatMap addScript ++ rest) :
    ∃ t, runSteps (filters.flatMap addScript).length s = .next t ∧ FiltersAdded s t filters rest := by
  induction filters using List.reverseRecOn generalizing rest with
  | nil => exact ⟨s, rfl, hidle, hsched, fun k => Bank.identifier_eq_none_iff.2 (hoff k), rfl, rfl, fun h => absurd rfl h⟩
  | append_singleton init x ih =>
    rw [List.length_append] at hlength
    rw [List.map_append, List.nodup_append] at hnodup
    obtain ⟨hinit, -, hdisjoint⟩ := hnodup
    have hflat : (init ++ [x]).flatMap addScript = init.flatMap addScript ++ addScript x := by simp
    rw [hflat, List.append_assoc] at hsched
    obtain ⟨t, hrun, hadded⟩ := ih (Nat.le_of_succ_le hlength) hinit hsched
    have hnew : x.2.arg0 ∉ init.map fun y => y.2.arg0 := fun hmem => hdisjoint _ hmem _ (List.mem_singleton_self _) rfl
    have hk : (⟨init.length, hlength⟩ : Fin Config.numBanks).val = (init.map fun y => y.2.arg0).length := by simp
    obtain ⟨u, hrun', hadded'⟩ := runSteps_faddScript hadded.idle (hadded.holds.noHit hnew) hadded.sched
      (hadded.holds.inactive hk.ge) fun j hj => hadded.holds.active (hk ▸ hj)
    have hresponded : Responded s u .ok := hadded'.responded.of_rspReserved_eq hadded.reserved
    rw [hflat, List.length_append]
    refine ⟨u, runSteps_append hrun hrun', hadded'.idle, hadded'.sched, ?_, hadded'.faults.trans hadded.faults, ?_,
      fun _ => hresponded⟩
    · rw [List.map_append]
      exact hadded'.holdsFilters hadded.holds hk
    · obtain ⟨-, -, -, -, hreserved⟩ := hresponded
      exact hreserved

/-! ### FCNT with every bank active -/

theorem State.inactiveBanks_of_allActive (hact : ∀ k, (s.bank k).act = true) : s.inactiveBanks = 0 := by
  simp [State.inactiveBanks, hact]

/-- The script of an FCNT while every bank is active (R146). -/
theorem runSteps_fcntScript_of_allActive (hidle : s.seq = .idle) (hsched : s.sched = hostScript .fcnt a ++ rest)
    (hact : ∀ k, (s.bank k).act = true) :
    ∃ t, runSteps (hostScript .fcnt a).length s = .next t ∧ t.res.res0 = 0 ∧ t.seq = .idle ∧ t.sched = rest ∧
      t.fb = s.fb ∧ t.faults = s.faults := by
  have hrun := runSteps_fcnt (s.ready_seqOnly a)
  have hcount : (s.ready a).inactiveBanks = 0 := State.inactiveBanks_of_allActive hact
  rw [hcount] at hrun
  exact ⟨_, runSteps_hostScript hidle decode_encode_fcnt hsched le_rfl hrun rfl, rfl, rfl, rfl, rfl, rfl⟩

/-- Settles O43: the 28 scripts fill the banks, so each of the three commands after them finds every bank active. -/
theorem twentyEightFiltersFill : Obligations.TwentyEightFiltersFill := by
  intro s filters m a b add hidle hoff hlength hnodup hnew hsched
  have hsched' : s.sched =
      filters.flatMap addScript ++ (hostScript .fcnt b ++ (addScript (m, a) ++ hostScript .fcnt b)) := by
    rw [hsched, List.append_assoc, List.append_assoc]
    rfl
  obtain ⟨t, hrun, hadded⟩ := runSteps_addScripts hidle hoff hlength.le hnodup hsched'
  have hne : filters ≠ [] := fun h => by simp [h] at hlength
  have hids (k : Fin Config.numBanks) : k.val < (filters.map fun x => x.2.arg0).length := by
    rw [List.length_map, hlength]
    exact k.isLt
  have hact (k : Fin Config.numBanks) : (t.bank k).act = true := hadded.holds.active (hids k)
  have hfid (k : Fin Config.numBanks) : some (t.bank k).fid = (filters[k.val]?).map fun x => x.2.arg0 := by
    rw [← List.getElem?_map, ← hadded.holds k, Bank.identifier, if_pos (hact k)]
  have hkept {v : State} (hfb : v.fb = t.fb) (k : Fin Config.numBanks) : (v.bank k).act = true :=
    (congrArg Bank.act (State.bank_congr t v hfb k)).trans (hact k)
  obtain ⟨u, hrunU, hzeroU, hidleU, hschedU, hfbU, hfaultsU⟩ :=
    runSteps_fcntScript_of_allActive hadded.idle hadded.sched hact
  have hnewU : u.NoHit a.arg0 := fun j => by
    rw [State.bank_congr t u hfbU j]
    exact hadded.holds.noHit hnew j
  obtain ⟨v, hrunV, hrespondedV, hschedV, hfbV, hfaultsV⟩ :=
    runSteps_faddScript_of_allActive hidleU hnewU hschedU (hkept hfbU)
  have hfbVt : v.fb = t.fb := hfbV.trans hfbU
  have hidleV : v.seq = .idle := hrespondedV.1
  obtain ⟨w, hrunW, hzeroW, -⟩ := runSteps_fcntScript_of_allActive (rest := []) hidleV
    (hschedV.trans (List.append_nil _).symm) (hkept hfbVt)
  exact ⟨t, u, v, w, hrun, hadded.responded hne, hadded.faults, fun k => ⟨hact k, hfid k⟩, hrunU, hzeroU, hrunV,
    hrespondedV, hfbVt, hfaultsV.trans (hfaultsU.trans hadded.faults), hrunW, hzeroW⟩

end Sys2Proof.Machine
